-- ==== Sys2Proof/Word.lean ====
section
/-! DEFINITION. The word types of the framing core (spec 00_scope.md R10, R11). -/

namespace Sys2Proof

/-- A byte: 8 bits, unsigned (R10). -/
abbrev Byte := BitVec 8

/-- A 16-bit value: operand `a`, a parameter, a checksum (R7, R40). -/
abbrev Half := BitVec 16

/-- Ten frame bytes as one 80-bit value `F[79:0]`; byte 0 is `F[79:72]` (R11). -/
abbrev FrameWord := BitVec 80

/-- The 12-bit selector `{RXS[3:0], b[7:0]}` of a receiver byte event (R113). -/
abbrev RxKey := BitVec 12

end Sys2Proof
end

