-- ==== Sys2Proof/Config.lean ====
section
/-! DEFINITION. The parameters of the core: the fixed ones of spec 00_scope.md R7, and the ones the spec leaves
`OPEN` or unspecified, as opaque constants that nothing can evaluate. -/

namespace Sys2Proof.Config

/-- `START` (R7, R91). -/
def startMarker : Byte := 0x7E#8

/-- `VERSION` (R7, R92). -/
def version : Byte := 0xFF#8

/-- `LENGTH` (R7, R93). -/
def length : Byte := 0x06#8

/-- `END` (R7, R98). -/
def endMarker : Byte := 0xEF#8

/-- `PEER_ERROR_CMD` (R7, R106). -/
def peerErrorCmd : Byte := 0x40#8

/-- `TRACK_MAX` (R7, R102). -/
def trackMax : Half := 2999#16

/-- `VOLUME_MAX` (R7, R102). -/
def volumeMax : Half := 30#16

/-- `SRC_DEFAULT`, the memory card (R7, R105). -/
def sourceDefault : Half := 2#16

/-- `FOLDER_MIN` (R7, R102). -/
def folderMin : Half := 1#16

/-- `FOLDER_MAX` (R7, R102). -/
def folderMax : Half := 99#16

/-- `FTRACK_MIN` (R7, R102). There is no `FTRACK_MAX` (R158). -/
def folderTrackMin : Byte := 1#8

/-- The names of the peer's sub-codes, in the order R7 and R236 list them. -/
inductive PeerError where
  | busy
  | sleepMode
  | receiveFramingError
  | checksumIncorrectPerPeer
  | trackOutOfRange
  | trackNotFound
  | insertionError
  | storageReadFailure
  | enteredSleep
  | unknown
  deriving DecidableEq, Repr, Inhabited

/-- `FEEDBACK`, OPEN (R7, R34, D10): the value the strap is held at. DESIGN CHOICE, notes/assumptions/2.md. -/
opaque feedback : Bool

/-- `TIMEOUT_MS`, OPEN (R7, R35, D9). DESIGN CHOICE, notes/assumptions/3.md. -/
opaque timeoutMs : Nat

/-- `PEER_CODE_MAP`, OPEN (R7, R236, D19): the name of each 16-bit sub-code. notes/assumptions/15.md. -/
opaque peerCodeMap : Half → PeerError

/-- The unspecified byte that the debug view shows for an `EMPTY` slot (R26, R44): of the step counter and the slot.
notes/assumptions/16.md. -/
opaque emptySlotByte : Nat → Fin 10 → Byte

/-- `rx_frame` in a cycle whose `rx_status` is an error, where R44 calls it not valid. notes/assumptions/16.md. -/
opaque invalidRxFrame : Nat → FrameWord

/-- `rx_peer_err` where R44 calls it not valid. notes/assumptions/16.md. -/
opaque invalidPeerErr : Nat → Bool

/-- `rx_peer_code` where R44 calls it not valid. notes/assumptions/16.md. -/
opaque invalidPeerCode : Nat → Half

/-- `tx_data` while `tx_valid` is 0. notes/assumptions/16.md. -/
opaque invalidTxData : Nat → Byte

end Sys2Proof.Config
end

