-- ==== Sys2Proof/Machine/Checksum.lean ====
section
/-! DEFINITION. The checksum engine CHK (spec 40_checksum.md). -/

namespace Sys2Proof.Machine

/-- `CHK` (R130): the 16-bit two's-complement negation of the sum of the six content bytes. -/
def chk (v l c f pm pl : Byte) : Half :=
  let s : Half := v.setWidth 16 + l.setWidth 16 + c.setWidth 16 + f.setWidth 16 + pm.setWidth 16 + pl.setWidth 16
  ~~~s + 1#16

end Sys2Proof.Machine
end

