-- ==== Sys2Proof/Syntax.lean ====
section
/-! DEFINITION. The syntax of the core: the ten frame positions, the receiver's state names, the event alphabet, and
one instruction per row of spec/opcode_table.json. -/

namespace Sys2Proof

/-- Ten things, one per frame byte, under the aliases of spec 10_state.md R22. -/
structure Slots (α : Type) where
  /-- index 0, start marker -/
  start : α
  /-- index 1, version -/
  ver : α
  /-- index 2, length -/
  len : α
  /-- index 3, command -/
  cmd : α
  /-- index 4, feedback flag -/
  fb : α
  /-- index 5, parameter MSB -/
  pm : α
  /-- index 6, parameter LSB -/
  pl : α
  /-- index 7, checksum MSB -/
  cm : α
  /-- index 8, checksum LSB -/
  cl : α
  /-- index 9, end marker (the spec's alias `end`) -/
  fin : α
  deriving DecidableEq, Repr

/-- The receiver's ten states (spec 00_scope.md R15, 10_state.md R30); R32: a type with exactly ten values. -/
inductive RxState where
  | awaitingStart
  | awaitingVersion
  | awaitingLength
  | awaitingCommand
  | awaitingFeedback
  | awaitingParamMsb
  | awaitingParamLsb
  | awaitingChecksumMsb
  | awaitingChecksumLsb
  | awaitingEnd
  deriving DecidableEq, Repr

/-- What the environment can present, before it is decoded: the event alphabet of R9, with the two entries of the
table that are no events (`receiveFrame`, R214; a direct call of `CHK`, R130). -/
inductive Event where
  /-- an encode request `(op, a, b)` (R100) -/
  | enc (op : Byte) (a : Half) (b : Byte)
  /-- `Send` (R215) -/
  | send
  /-- `GetFrameBytes` (R210) -/
  | getFrameBytes
  /-- `GetFrameRecord` (R211) -/
  | getFrameRecord
  /-- `RxByte(b)` (R170) -/
  | rxByte (b : Byte)
  /-- `RxIdle(expired)` (R182) -/
  | rxIdle (expired : Bool)
  /-- `RxLoad(d)` (R212) -/
  | rxLoad (d : Slots Byte)
  /-- `RxAbort` (R213) -/
  | rxAbort
  /-- the pseudo-operation `receiveFrame()` (R214) -/
  | receiveFrame
  /-- `Reset` (R270) -/
  | reset
  /-- a call of the pure function `CHK` (R130) -/
  | chk (v l c f pm pl : Byte)
  deriving DecidableEq, Repr

/-- The instructions: one constructor per row of spec/opcode_table.json, in the table's order. -/
inductive Instr where
  /-- play-next, R143 -/
  | playNext (a : Half) (b : Byte)
  /-- play-previous, R144 -/
  | playPrevious (a : Half) (b : Byte)
  /-- play-track, R145: `a` = trackNumber -/
  | playTrack (a : Half) (b : Byte)
  /-- increment-volume, R146 -/
  | incrementVolume (a : Half) (b : Byte)
  /-- decrement-volume, R147 -/
  | decrementVolume (a : Half) (b : Byte)
  /-- set-volume, R148: `a` = volume -/
  | setVolume (a : Half) (b : Byte)
  /-- set-playback-source, R149: `a` = source -/
  | setPlaybackSource (a : Half) (b : Byte)
  /-- enter-standby, R150 -/
  | enterStandby (a : Half) (b : Byte)
  /-- enter-normal, R151 -/
  | enterNormal (a : Half) (b : Byte)
  /-- factory-reset, R152 -/
  | factoryReset (a : Half) (b : Byte)
  /-- pause, R153 -/
  | pause (a : Half) (b : Byte)
  /-- play-folder-track, R154: `a` = folderNumber, `b` = trackNumber -/
  | playFolderTrack (a : Half) (b : Byte)
  /-- peer-error-frame, R236: the ten bytes of an inbound frame with command `0x40` -/
  | peerErrorFrame (fb : Byte) (param : Half) (ck : Half)
  /-- good-frame, R183: the ten bytes of an inbound frame -/
  | goodFrame (cmd : Byte) (fb : Byte) (param : Half) (ck : Half)
  /-- rx.start, R172 -/
  | rxStart
  /-- rx.discard, R172 -/
  | rxDiscard (b : Byte)
  /-- rx.version.ok, R173 -/
  | rxVersionOk
  /-- rx.version.bad, R173 -/
  | rxVersionBad (b : Byte)
  /-- rx.length.ok, R174 -/
  | rxLengthOk
  /-- rx.length.bad, R174 -/
  | rxLengthBad (b : Byte)
  /-- rx.command, R175 -/
  | rxCommand (b : Byte)
  /-- rx.feedback, R176 -/
  | rxFeedback (b : Byte)
  /-- rx.param-msb, R177 -/
  | rxParamMsb (b : Byte)
  /-- rx.param-lsb, R178 -/
  | rxParamLsb (b : Byte)
  /-- rx.checksum-msb, R179 -/
  | rxChecksumMsb (b : Byte)
  /-- rx.checksum-lsb, R180 -/
  | rxChecksumLsb (b : Byte)
  /-- rx.end.ok, R181 -/
  | rxEndOk
  /-- rx.end.bad, R181 -/
  | rxEndBad (b : Byte)
  /-- RX_IDLE, R182 -/
  | rxIdle (expired : Bool)
  /-- RX_LOAD, R212 -/
  | rxLoad (d : Slots Byte)
  /-- RX_ABORT, R213 -/
  | rxAbort
  /-- TX_SEND, R215 -/
  | txSend
  /-- GET_FRAME_BYTES, R210 -/
  | getFrameBytes
  /-- GET_FRAME_RECORD, R211 -/
  | getFrameRecord
  /-- RECEIVE_FRAME, R214 -/
  | receiveFrame
  /-- RESET, R270 -/
  | reset
  /-- CHK, R130 -/
  | chk (v l c f pm pl : Byte)
  /-- ENC_REFUSED, R155: a request whose `op` is none of the twelve -/
  | encRefused (op : Byte) (a : Half) (b : Byte)
  deriving DecidableEq, Repr

end Sys2Proof
end

