-- ==== Sys2Proof/Machine/Operands.lean ====
section
/-! DEFINITION. Operand assembly: the big-endian split, the clamps, the packing, and the views of a frame as ten bytes
and as one 80-bit value (spec 30_encoding.md R101 to R103, 20_memory.md R65 to R67). -/

namespace Sys2Proof.Machine

/-- The most significant byte of a 16-bit value (R101). -/
def hi (p : Half) : Byte := p.extractLsb' 8 8

/-- The least significant byte of a 16-bit value (R101). -/
def lo (p : Half) : Byte := p.extractLsb' 0 8

/-- The 16-bit value of two bytes, most significant first (R65). -/
def half (m l : Byte) : Half := m ++ l

/-- `min` on unsigned numbers (R10). -/
def umin {n : Nat} (x y : BitVec n) : BitVec n := if x ≤ y then x else y

/-- `max` on unsigned numbers (R10). -/
def umax {n : Nat} (x y : BitVec n) : BitVec n := if x ≤ y then y else x

/-- `clamp(x, lo, hi)` (R10). -/
def clamp {n : Nat} (x low high : BitVec n) : BitVec n := umin (umax x low) high

/-- The feedback byte: `zext_8(FEEDBACK)` (R95, R140, D29). -/
def feedbackByte (feedback : Bool) : Byte := if feedback then 1#8 else 0#8

/-- The parameter of play-track (R102, R145). -/
def trackParam (a : Half) : Half := umin a Config.trackMax

/-- The parameter of set-volume (R102, R148). -/
def volumeParam (a : Half) : Half := umin a Config.volumeMax

/-- The parameter of set-playback-source: a replacement by the default, not a clamp (R102, R149). -/
def sourceParam (a : Half) : Half :=
  if a = 1#16 ∨ a = 2#16 ∨ a = 3#16 ∨ a = 4#16 then a else Config.sourceDefault

/-- The clamped folder number (R102, R154). -/
def folderNumber (a : Half) : Half := clamp a Config.folderMin Config.folderMax

/-- The floored folder-track number; no ceiling (R102, R154, R158). -/
def folderTrack (b : Byte) : Byte := umax b Config.folderTrackMin

/-- The packed parameter of play-folder-track: folder in the MSB (R103). -/
def folderParam (a : Half) (b : Byte) : Half := half (lo (folderNumber a)) (folderTrack b)

/-- Slot `i` of ten (R22). -/
def slotAt {α : Type} (d : Slots α) (i : Fin 10) : α :=
  match i with
  | 0 => d.start
  | 1 => d.ver
  | 2 => d.len
  | 3 => d.cmd
  | 4 => d.fb
  | 5 => d.pm
  | 6 => d.pl
  | 7 => d.cm
  | 8 => d.cl
  | 9 => d.fin

/-- Ten bytes in wire order, byte 0 first (R11, R66). -/
def wireOrder {α : Type} (d : Slots α) : List α :=
  [d.start, d.ver, d.len, d.cmd, d.fb, d.pm, d.pl, d.cm, d.cl, d.fin]

/-- Wire byte `k` of `F[79:0]` is `F[79-8k : 72-8k]` (R11). -/
def wireByte (F : FrameWord) (k : Fin 10) : Byte := F.extractLsb' (72 - 8 * k.val) 8

/-- The ten bytes of `F[79:0]` (R11). -/
def wireBytes (F : FrameWord) : Slots Byte :=
  { start := wireByte F 0, ver := wireByte F 1, len := wireByte F 2, cmd := wireByte F 3, fb := wireByte F 4,
    pm := wireByte F 5, pl := wireByte F 6, cm := wireByte F 7, cl := wireByte F 8, fin := wireByte F 9 }

/-- Ten bytes as `F[79:0]` (R11). -/
def wireWord (d : Slots Byte) : FrameWord :=
  d.start ++ d.ver ++ d.len ++ d.cmd ++ d.fb ++ d.pm ++ d.pl ++ d.cm ++ d.cl ++ d.fin

/-- The checksum that ten bytes should carry: `CHK` of bytes 1 to 6 (R97). -/
def expectedChecksum (d : Slots Byte) : Half := chk d.ver d.len d.cmd d.fb d.pm d.pl

/-- A frame with the fixed markers around the given contents and checksum (R90 to R98). -/
def frameAround (cmd fb : Byte) (param ck : Half) : Slots Byte :=
  { start := Config.startMarker, ver := Config.version, len := Config.length, cmd := cmd, fb := fb,
    pm := hi param, pl := lo param, cm := hi ck, cl := lo ck, fin := Config.endMarker }

/-- The frame that carries the command, feedback byte and parameter with their checksum (R97). -/
def frameFor (cmd fb : Byte) (param : Half) : Slots Byte :=
  frameAround cmd fb param (chk Config.version Config.length cmd fb (hi param) (lo param))

end Sys2Proof.Machine
end

