-- ==== Sys2Proof/WellFormed.lean ====
section
/-! DEFINITION. Which instruction terms stand for a row of the table: the checks that the types do not already make. -/

namespace Sys2Proof

/-- The twelve operation numbers (spec 30_encoding.md R104). -/
def listedOps : List Byte :=
  [0x01#8, 0x02#8, 0x03#8, 0x04#8, 0x05#8, 0x06#8, 0x09#8, 0x0A#8, 0x0B#8, 0x0C#8, 0x0E#8, 0x0F#8]

/-- The checks. An encode operation admits every operand (R141, R156). A row that stands behind an exact-match row of
its state does not name that row's byte (R113: the first row that matches wins). An inbound frame's checksum is `CHK` of
its contents, and good-frame stands behind peer-error-frame. A refused request names an unlisted number (R155). -/
def Instr.wellFormed (i : Instr) : Bool :=
  match i with
  | .playNext _ _ => true
  | .playPrevious _ _ => true
  | .playTrack _ _ => true
  | .incrementVolume _ _ => true
  | .decrementVolume _ _ => true
  | .setVolume _ _ => true
  | .setPlaybackSource _ _ => true
  | .enterStandby _ _ => true
  | .enterNormal _ _ => true
  | .factoryReset _ _ => true
  | .pause _ _ => true
  | .playFolderTrack _ _ => true
  | .peerErrorFrame fb param ck =>
    ck == Machine.chk Config.version Config.length Config.peerErrorCmd fb (Machine.hi param) (Machine.lo param)
  | .goodFrame cmd fb param ck =>
    cmd != Config.peerErrorCmd &&
      ck == Machine.chk Config.version Config.length cmd fb (Machine.hi param) (Machine.lo param)
  | .rxStart => true
  | .rxDiscard b => b != Config.startMarker
  | .rxVersionOk => true
  | .rxVersionBad b => b != Config.version
  | .rxLengthOk => true
  | .rxLengthBad b => b != Config.length
  | .rxCommand _ => true
  | .rxFeedback _ => true
  | .rxParamMsb _ => true
  | .rxParamLsb _ => true
  | .rxChecksumMsb _ => true
  | .rxChecksumLsb _ => true
  | .rxEndOk => true
  | .rxEndBad b => b != Config.endMarker
  | .rxIdle _ => true
  | .rxLoad _ => true
  | .rxAbort => true
  | .txSend => true
  | .getFrameBytes => true
  | .getFrameRecord => true
  | .receiveFrame => true
  | .reset => true
  | .chk _ _ _ _ _ _ => true
  | .encRefused op _ _ => !listedOps.contains op

/-- The instruction passes its checks. -/
abbrev Instr.WellFormed (i : Instr) : Prop := i.wellFormed = true

end Sys2Proof
end

