-- ==== Sys2Proof/Decode.lean ====
section
/-! DEFINITION. The decoders and encoders of the four formats: the encode request (spec 30_encoding.md R100), the
FRAME80 word in each direction (R90, R104, R113), the RXEVT key (R113), and the events without an encoding. -/

namespace Sys2Proof

/-- Why a word is no instruction. -/
inductive DecodeError where
  /-- an 80-bit word that fits no outbound FRAME80 row -/
  | noOutboundRow
  /-- an 80-bit word that fits no inbound FRAME80 row -/
  | noInboundRow
  /-- a key whose RXS code is 10 to 15, which are not states (R32) -/
  | noSuchState
  deriving DecidableEq, Repr

/-- A word to decode, with its format. FRAME80 rows of the two directions overlap (R90: one format), so the direction is
part of the format. -/
inductive Encoded where
  /-- an encode request `(op, a, b)`, R100 -/
  | request (op : Byte) (a : Half) (b : Byte)
  /-- a frame the encoder builds, FRAME80 -/
  | outbound (F : FrameWord)
  /-- a frame on the receive stream, FRAME80 -/
  | inbound (F : FrameWord)
  /-- a receiver byte event's key `{RXS, b}`, RXEVT -/
  | rxEvent (k : RxKey)
  deriving DecidableEq, Repr

/-! ### Encode requests -/

/-- The instruction of an encode request (R100, R104); any other number is the refused request (R107, R155). -/
def decodeRequest (op : Byte) (a : Half) (b : Byte) : Instr :=
  match op.toNat with
  | 0x01 => .playNext a b
  | 0x02 => .playPrevious a b
  | 0x03 => .playTrack a b
  | 0x04 => .incrementVolume a b
  | 0x05 => .decrementVolume a b
  | 0x06 => .setVolume a b
  | 0x09 => .setPlaybackSource a b
  | 0x0A => .enterStandby a b
  | 0x0B => .enterNormal a b
  | 0x0C => .factoryReset a b
  | 0x0E => .pause a b
  | 0x0F => .playFolderTrack a b
  | _ => .encRefused op a b

/-! ### Receiver byte events -/

/-- The 4-bit code of a receiver state (R30). -/
def RxState.code (r : RxState) : BitVec 4 :=
  match r with
  | .awaitingStart => 0#4
  | .awaitingVersion => 1#4
  | .awaitingLength => 2#4
  | .awaitingCommand => 3#4
  | .awaitingFeedback => 4#4
  | .awaitingParamMsb => 5#4
  | .awaitingParamLsb => 6#4
  | .awaitingChecksumMsb => 7#4
  | .awaitingChecksumLsb => 8#4
  | .awaitingEnd => 9#4

/-- The state of a 4-bit code; 10 to 15 are not states (R32). -/
def RxState.ofCode (c : BitVec 4) : Option RxState :=
  match c.toNat with
  | 0 => some .awaitingStart
  | 1 => some .awaitingVersion
  | 2 => some .awaitingLength
  | 3 => some .awaitingCommand
  | 4 => some .awaitingFeedback
  | 5 => some .awaitingParamMsb
  | 6 => some .awaitingParamLsb
  | 7 => some .awaitingChecksumMsb
  | 8 => some .awaitingChecksumLsb
  | 9 => some .awaitingEnd
  | _ => none

/-- The key `{RXS, b}` (R113). -/
def rxKey (r : RxState) (b : Byte) : RxKey := r.code ++ b

/-- The instruction of `RxByte(b)` in state `r` (R172 to R181). -/
def decodeRxByte (r : RxState) (b : Byte) : Instr :=
  match r with
  | .awaitingStart => if b = Config.startMarker then .rxStart else .rxDiscard b
  | .awaitingVersion => if b = Config.version then .rxVersionOk else .rxVersionBad b
  | .awaitingLength => if b = Config.length then .rxLengthOk else .rxLengthBad b
  | .awaitingCommand => .rxCommand b
  | .awaitingFeedback => .rxFeedback b
  | .awaitingParamMsb => .rxParamMsb b
  | .awaitingParamLsb => .rxParamLsb b
  | .awaitingChecksumMsb => .rxChecksumMsb b
  | .awaitingChecksumLsb => .rxChecksumLsb b
  | .awaitingEnd => if b = Config.endMarker then .rxEndOk else .rxEndBad b

/-- A row of the RXEVT table: its match and mask, and the instruction of the byte. -/
structure RxRow where
  pattern : RxKey
  mask : RxKey
  make : Byte → Instr

/-- The RXEVT rows of opcode_table.json, in its order, which is their priority (R113). -/
def rxRows : List RxRow :=
  [⟨0x07E#12, 0xFFF#12, fun _ => .rxStart⟩,
   ⟨0x000#12, 0xF00#12, .rxDiscard⟩,
   ⟨0x1FF#12, 0xFFF#12, fun _ => .rxVersionOk⟩,
   ⟨0x100#12, 0xF00#12, .rxVersionBad⟩,
   ⟨0x206#12, 0xFFF#12, fun _ => .rxLengthOk⟩,
   ⟨0x200#12, 0xF00#12, .rxLengthBad⟩,
   ⟨0x300#12, 0xF00#12, .rxCommand⟩,
   ⟨0x400#12, 0xF00#12, .rxFeedback⟩,
   ⟨0x500#12, 0xF00#12, .rxParamMsb⟩,
   ⟨0x600#12, 0xF00#12, .rxParamLsb⟩,
   ⟨0x700#12, 0xF00#12, .rxChecksumMsb⟩,
   ⟨0x800#12, 0xF00#12, .rxChecksumLsb⟩,
   ⟨0x9EF#12, 0xFFF#12, fun _ => .rxEndOk⟩,
   ⟨0x900#12, 0xF00#12, .rxEndBad⟩]

/-- The state and the byte of a key (R113). -/
def keyState (k : RxKey) : BitVec 4 := k.extractLsb' 8 4

/-- The byte of a key (R113). -/
def keyByte (k : RxKey) : Byte := k.extractLsb' 0 8

/-- The RXEVT table read literally: the first row that matches wins (R113). -/
def decodeRxKey (k : RxKey) : Except DecodeError Instr :=
  match rxRows.find? (fun r => k &&& r.mask == r.pattern) with
  | some r => .ok (r.make (keyByte k))
  | none => .error .noSuchState

/-! ### FRAME80 words -/

/-- A row of the FRAME80 table: its match and mask over `F[79:0]`, and the instruction of the ten bytes. -/
structure FrameRow where
  pattern : FrameWord
  mask : FrameWord
  make : Slots Byte → Instr

/-- The twelve outbound rows of opcode_table.json. A decoder tells the operation from the command byte (R104); the
operands are the parameter as the frame carries it. The checksum and feedback bits are results, not operands. -/
def outboundRows : List FrameRow :=
  [⟨0x7EFF06010000000000EF#80, 0xFFFFFFFFFEFFFF0000FF#80, fun _ => .playNext 0#16 0#8⟩,
   ⟨0x7EFF06020000000000EF#80, 0xFFFFFFFFFEFFFF0000FF#80, fun _ => .playPrevious 0#16 0#8⟩,
   ⟨0x7EFF06030000000000EF#80, 0xFFFFFFFFFEF0000000FF#80, fun d => .playTrack (Machine.half d.pm d.pl) 0#8⟩,
   ⟨0x7EFF06040000000000EF#80, 0xFFFFFFFFFEFFFF0000FF#80, fun _ => .incrementVolume 0#16 0#8⟩,
   ⟨0x7EFF06050000000000EF#80, 0xFFFFFFFFFEFFFF0000FF#80, fun _ => .decrementVolume 0#16 0#8⟩,
   ⟨0x7EFF06060000000000EF#80, 0xFFFFFFFFFEFFE00000FF#80, fun d => .setVolume (Machine.half d.pm d.pl) 0#8⟩,
   ⟨0x7EFF06090000000000EF#80, 0xFFFFFFFFFEFFF80000FF#80, fun d => .setPlaybackSource (Machine.half d.pm d.pl) 0#8⟩,
   ⟨0x7EFF060A0000000000EF#80, 0xFFFFFFFFFEFFFF0000FF#80, fun _ => .enterStandby 0#16 0#8⟩,
   ⟨0x7EFF060B0000000000EF#80, 0xFFFFFFFFFEFFFF0000FF#80, fun _ => .enterNormal 0#16 0#8⟩,
   ⟨0x7EFF060C0000000000EF#80, 0xFFFFFFFFFEFFFF0000FF#80, fun _ => .factoryReset 0#16 0#8⟩,
   ⟨0x7EFF060E0000000000EF#80, 0xFFFFFFFFFEFFFF0000FF#80, fun _ => .pause 0#16 0#8⟩,
   ⟨0x7EFF060F0000000000EF#80, 0xFFFFFFFFFE80000000FF#80, fun d => .playFolderTrack (d.pm.setWidth 16) d.pl⟩]

/-- The two inbound rows, the peer-error frame first. The checksum is carried, for the receiver to judge (R97, R180). -/
def inboundRows : List FrameRow :=
  [⟨0x7EFF06400000000000EF#80, 0xFFFFFFFF0000000000FF#80,
    fun d => .peerErrorFrame d.fb (Machine.half d.pm d.pl) (Machine.half d.cm d.cl)⟩,
   ⟨0x7EFF06000000000000EF#80, 0xFFFFFF000000000000FF#80,
    fun d => .goodFrame d.cmd d.fb (Machine.half d.pm d.pl) (Machine.half d.cm d.cl)⟩]

/-- The first row whose fixed bits the word has. -/
def firstRow (rows : List FrameRow) (F : FrameWord) : Option Instr :=
  (rows.find? (fun r => F &&& r.mask == r.pattern)).map (fun r => r.make (Machine.wireBytes F))

/-- The operation that an outbound frame stands for (R104). -/
def decodeOutbound (F : FrameWord) : Except DecodeError Instr :=
  match firstRow outboundRows F with
  | some i => .ok i
  | none => .error .noOutboundRow

/-- The instruction of an inbound frame (R183, R236). -/
def decodeInbound (F : FrameWord) : Except DecodeError Instr :=
  match firstRow inboundRows F with
  | some i => .ok i
  | none => .error .noInboundRow

/-! ### All formats -/

/-- The decoder: total on every word of every format, rejecting by name. -/
def decode (w : Encoded) : Except DecodeError Instr :=
  match w with
  | .request op a b => .ok (decodeRequest op a b)
  | .outbound F => decodeOutbound F
  | .inbound F => decodeInbound F
  | .rxEvent k => decodeRxKey k

/-- The instruction of an event that the environment presents while the receiver is in state `r`. -/
def decodeEvent (r : RxState) (e : Event) : Instr :=
  match e with
  | .enc op a b => decodeRequest op a b
  | .send => .txSend
  | .getFrameBytes => .getFrameBytes
  | .getFrameRecord => .getFrameRecord
  | .rxByte b => decodeRxByte r b
  | .rxIdle expired => .rxIdle expired
  | .rxLoad d => .rxLoad d
  | .rxAbort => .rxAbort
  | .receiveFrame => .receiveFrame
  | .reset => .reset
  | .chk v l c f pm pl => .chk v l c f pm pl

/-- The instruction that the decoder reads from a table word: an RXEVT key (at most 16 bits, the upper four 0) or a
FRAME80 word numbered as `F[79:0]` (R11), the outbound rows before the inbound ones, as the table lists them. -/
def decodeTableWord (nbits w : Nat) : Option Instr :=
  if nbits ≤ 16 then
    if w < 4096 then (decodeRxKey (BitVec.ofNat 12 w)).toOption else none
  else if nbits = 80 then
    let F : FrameWord := BitVec.ofNat 80 w
    match decodeOutbound F with
    | .ok i => some i
    | .error _ => (decodeInbound F).toOption
  else none

/-! ### Encoders -/

/-- The word of an instruction that has one: the request of an encode operation (R100, R104), the key of a receiver byte
event (R113), the ten bytes of an inbound frame (R90). EVENT rows have no encoding (R113). -/
def encode (i : Instr) : Option Encoded :=
  match i with
  | .playNext a b => some (.request 0x01#8 a b)
  | .playPrevious a b => some (.request 0x02#8 a b)
  | .playTrack a b => some (.request 0x03#8 a b)
  | .incrementVolume a b => some (.request 0x04#8 a b)
  | .decrementVolume a b => some (.request 0x05#8 a b)
  | .setVolume a b => some (.request 0x06#8 a b)
  | .setPlaybackSource a b => some (.request 0x09#8 a b)
  | .enterStandby a b => some (.request 0x0A#8 a b)
  | .enterNormal a b => some (.request 0x0B#8 a b)
  | .factoryReset a b => some (.request 0x0C#8 a b)
  | .pause a b => some (.request 0x0E#8 a b)
  | .playFolderTrack a b => some (.request 0x0F#8 a b)
  | .peerErrorFrame fb param ck =>
    some (.inbound (Machine.wireWord (Machine.frameAround Config.peerErrorCmd fb param ck)))
  | .goodFrame cmd fb param ck => some (.inbound (Machine.wireWord (Machine.frameAround cmd fb param ck)))
  | .rxStart => some (.rxEvent (rxKey .awaitingStart Config.startMarker))
  | .rxDiscard b => some (.rxEvent (rxKey .awaitingStart b))
  | .rxVersionOk => some (.rxEvent (rxKey .awaitingVersion Config.version))
  | .rxVersionBad b => some (.rxEvent (rxKey .awaitingVersion b))
  | .rxLengthOk => some (.rxEvent (rxKey .awaitingLength Config.length))
  | .rxLengthBad b => some (.rxEvent (rxKey .awaitingLength b))
  | .rxCommand b => some (.rxEvent (rxKey .awaitingCommand b))
  | .rxFeedback b => some (.rxEvent (rxKey .awaitingFeedback b))
  | .rxParamMsb b => some (.rxEvent (rxKey .awaitingParamMsb b))
  | .rxParamLsb b => some (.rxEvent (rxKey .awaitingParamLsb b))
  | .rxChecksumMsb b => some (.rxEvent (rxKey .awaitingChecksumMsb b))
  | .rxChecksumLsb b => some (.rxEvent (rxKey .awaitingChecksumLsb b))
  | .rxEndOk => some (.rxEvent (rxKey .awaitingEnd Config.endMarker))
  | .rxEndBad b => some (.rxEvent (rxKey .awaitingEnd b))
  | .rxIdle _ => none
  | .rxLoad _ => none
  | .rxAbort => none
  | .txSend => none
  | .getFrameBytes => none
  | .getFrameRecord => none
  | .receiveFrame => none
  | .reset => none
  | .chk _ _ _ _ _ _ => none
  | .encRefused op a b => some (.request op a b)

/-- The FRAME80 word of a row: the frame that an encode operation builds under the given `FEEDBACK` (R104, R140), or the
inbound frame itself. -/
def encodeFrame (feedback : Bool) (i : Instr) : Option FrameWord :=
  let built (op : Byte) (p : Half) : Option FrameWord :=
    some (Machine.wireWord (Machine.frameFor op (Machine.feedbackByte feedback) p))
  match i with
  | .playNext _ _ => built 0x01#8 0#16
  | .playPrevious _ _ => built 0x02#8 0#16
  | .playTrack a _ => built 0x03#8 (Machine.trackParam a)
  | .incrementVolume _ _ => built 0x04#8 0#16
  | .decrementVolume _ _ => built 0x05#8 0#16
  | .setVolume a _ => built 0x06#8 (Machine.volumeParam a)
  | .setPlaybackSource a _ => built 0x09#8 (Machine.sourceParam a)
  | .enterStandby _ _ => built 0x0A#8 0#16
  | .enterNormal _ _ => built 0x0B#8 0#16
  | .factoryReset _ _ => built 0x0C#8 0#16
  | .pause _ _ => built 0x0E#8 0#16
  | .playFolderTrack a b => built 0x0F#8 (Machine.folderParam a b)
  | .peerErrorFrame fb param ck => some (Machine.wireWord (Machine.frameAround Config.peerErrorCmd fb param ck))
  | .goodFrame cmd fb param ck => some (Machine.wireWord (Machine.frameAround cmd fb param ck))
  | .rxStart => none
  | .rxDiscard _ => none
  | .rxVersionOk => none
  | .rxVersionBad _ => none
  | .rxLengthOk => none
  | .rxLengthBad _ => none
  | .rxCommand _ => none
  | .rxFeedback _ => none
  | .rxParamMsb _ => none
  | .rxParamLsb _ => none
  | .rxChecksumMsb _ => none
  | .rxChecksumLsb _ => none
  | .rxEndOk => none
  | .rxEndBad _ => none
  | .rxIdle _ => none
  | .rxLoad _ => none
  | .rxAbort => none
  | .txSend => none
  | .getFrameBytes => none
  | .getFrameRecord => none
  | .receiveFrame => none
  | .reset => none
  | .chk _ _ _ _ _ _ => none
  | .encRefused _ _ _ => none

/-- The operands as the frame carries them: clamped, and an ignored operand 0 (R101, R102, R156). -/
def Instr.carried (i : Instr) : Instr :=
  match i with
  | .playNext _ _ => .playNext 0#16 0#8
  | .playPrevious _ _ => .playPrevious 0#16 0#8
  | .playTrack a _ => .playTrack (Machine.trackParam a) 0#8
  | .incrementVolume _ _ => .incrementVolume 0#16 0#8
  | .decrementVolume _ _ => .decrementVolume 0#16 0#8
  | .setVolume a _ => .setVolume (Machine.volumeParam a) 0#8
  | .setPlaybackSource a _ => .setPlaybackSource (Machine.sourceParam a) 0#8
  | .enterStandby _ _ => .enterStandby 0#16 0#8
  | .enterNormal _ _ => .enterNormal 0#16 0#8
  | .factoryReset _ _ => .factoryReset 0#16 0#8
  | .pause _ _ => .pause 0#16 0#8
  | .playFolderTrack a b => .playFolderTrack (Machine.folderNumber a) (Machine.folderTrack b)
  | .peerErrorFrame fb param ck => .peerErrorFrame fb param ck
  | .goodFrame cmd fb param ck => .goodFrame cmd fb param ck
  | .rxStart => .rxStart
  | .rxDiscard b => .rxDiscard b
  | .rxVersionOk => .rxVersionOk
  | .rxVersionBad b => .rxVersionBad b
  | .rxLengthOk => .rxLengthOk
  | .rxLengthBad b => .rxLengthBad b
  | .rxCommand b => .rxCommand b
  | .rxFeedback b => .rxFeedback b
  | .rxParamMsb b => .rxParamMsb b
  | .rxParamLsb b => .rxParamLsb b
  | .rxChecksumMsb b => .rxChecksumMsb b
  | .rxChecksumLsb b => .rxChecksumLsb b
  | .rxEndOk => .rxEndOk
  | .rxEndBad b => .rxEndBad b
  | .rxIdle expired => .rxIdle expired
  | .rxLoad d => .rxLoad d
  | .rxAbort => .rxAbort
  | .txSend => .txSend
  | .getFrameBytes => .getFrameBytes
  | .getFrameRecord => .getFrameRecord
  | .receiveFrame => .receiveFrame
  | .reset => .reset
  | .chk v l c f pm pl => .chk v l c f pm pl
  | .encRefused op a b => .encRefused op a b

end Sys2Proof
end

