-- ==== Sys2Proof/Machine/State.lean ====
section
/-! DEFINITION. The state of the core as plain data, its outputs, its stops, and the state after reset. -/

namespace Sys2Proof.Machine

/-- A frame as a record (spec 10_state.md R40). -/
structure Frame where
  start : Byte
  version : Byte
  length : Byte
  command : Byte
  feedback : Byte
  param : Half
  checksum : Half
  endMarker : Byte
  deriving DecidableEq, Repr

/-- The kinds of an error report (60_exceptions.md R230, R231). -/
inductive ErrKind where
  | version
  | length
  | checksum
  | endMarker
  | timeout
  deriving DecidableEq, Repr

/-- The result of a receiver event (R230). -/
inductive Result where
  | none
  | frame (fr : Frame)
  | err (k : ErrKind)
  deriving DecidableEq, Repr

/-- The two outputs that go with a `FRAME` result (R236). -/
structure PeerReport where
  peerErr : Bool
  peerCode : Half
  deriving DecidableEq, Repr

/-- All outputs of one event. An output that the event does not have stays at its default (R33, R46). -/
structure EventOut where
  /-- `result` (R230) -/
  result : Result := .none
  /-- `peer_err`, `peer_code`, present with a `FRAME` result only (R236) -/
  peer : Option PeerReport := .none
  /-- the arm request with its duration (R172) -/
  arm : Option Nat := .none
  /-- the pulse `enc_refused` (R155) -/
  encRefused : Bool := false
  /-- the answer of `GetFrameBytes` (R210) -/
  frameBytes : Option (Slots Byte) := .none
  /-- the answer of `GetFrameRecord` (R211) -/
  frameRecord : Option Frame := .none
  /-- the answer of a direct call of `CHK` (R130) -/
  checksum : Option Half := .none
  deriving DecidableEq, Repr

/-- The input ports sampled at one rising edge (R44), but for the two straps, which are fields of `State`. -/
structure InPorts where
  rst : Bool := false
  encValid : Bool := false
  encOp : Byte := 0#8
  encA : Half := 0#16
  encB : Byte := 0#8
  txSend : Bool := false
  txReady : Bool := false
  rxValid : Bool := false
  rxData : Byte := 0#8
  tmrExpired : Bool := false
  rxLoad : Bool := false
  rxLoadData : FrameWord := 0#80
  rxAbort : Bool := false
  deriving DecidableEq, Repr

/-- What the environment presents at one step. The model's own: notes/assumptions/1.md. -/
inductive Input where
  /-- one event -/
  | event (e : Event)
  /-- ten bytes that arrive one after the other with nothing between them -/
  | line (F : FrameWord)
  /-- one cycle of the clocked binding (R45) -/
  | cycle (p : InPorts)
  deriving DecidableEq, Repr

/-- The bytes of `OUT` that are stored: 3 to 8. Bytes 0, 1, 2 and 9 are hard-wired (R23). -/
structure OutReg where
  cmd : Byte
  fb : Byte
  pm : Byte
  pl : Byte
  cm : Byte
  cl : Byte
  deriving DecidableEq, Repr

/-- The state. `out`, `acc`, `rxs` are the core's own (R20); `feedback` and `timeoutMs` are held by the environment
(R34, R35); `handover` belongs to the clocked binding (R44, R285); `inputs`, `tx`, `outs`, `tick` are the model's, for
the environment's inputs, the transmit stream (R63), the outputs of the last step (R33, R46) and unspecified port
values (notes/assumptions/1.md, 8.md, 16.md). -/
structure State where
  /-- the outbound frame register `OUT` (R21) -/
  out : OutReg
  /-- the inbound accumulator `ACC`; `none` is `EMPTY` (R26) -/
  acc : Slots (Option Byte)
  /-- the receiver state register `RXS` (R30) -/
  rxs : RxState
  /-- `FEEDBACK`, the strap `cfg_feedback` (R34) -/
  feedback : Bool
  /-- `TIMEOUT_MS`, the strap `cfg_timeout_ms` (R35) -/
  timeoutMs : Nat
  /-- the bytes of an accepted `Send` still to be handed over; `tx_busy` when there are some (R44) -/
  handover : List Byte
  /-- the transmit stream, oldest first (R63) -/
  tx : List Byte
  /-- what the environment will present, next first -/
  inputs : List Input
  /-- the outputs of the events of the last step, in order (R33) -/
  outs : List EventOut
  /-- how many steps have been taken -/
  tick : Nat
  deriving DecidableEq, Repr

/-- The model's faults; the core itself has none (R13). -/
inductive Fault where
  /-- Raised by rx.checksum-lsb and rx.end.ok, and by what runs byte events, where a slot they read is `EMPTY`. R29 asks
  a model for this fault; the hardware has none, and no reachable state has such a read (R27). Safe. -/
  | emptySlotRead (slot : Fin 10)
  deriving DecidableEq, Repr

/-- The model's refusals. -/
inductive Refusal where
  /-- Raised by an arm of `exec` whose instruction has no meaning yet. Safe. -/
  | notModelled (mnemonic : String)
  /-- Raised by an RXEVT instruction executed while `RXS` is not the state that its key `{RXS, b}` names (R113): there is
  no such event, and decoding never gives one. Safe. -/
  | selectorMismatch
  deriving DecidableEq, Repr

/-- The outcome of a step of this machine. -/
abbrev Outcome := Host.Outcome State Fault Refusal

/-- `OUT[3..8]` after reset (R42, D15). -/
def resetOut : OutReg :=
  { cmd := 0x00#8, fb := 0x00#8, pm := 0x00#8, pl := 0x00#8, cm := 0xFE#8, cl := 0xFB#8 }

/-- All ten slots `EMPTY` (R26). -/
def emptyAcc : Slots (Option Byte) :=
  { start := none, ver := none, len := none, cmd := none, fb := none, pm := none, pl := none, cm := none, cl := none,
    fin := none }

/-- The state right after reset (R42). The straps hold whatever the environment holds them at. -/
def State.reset : State :=
  { out := resetOut
    acc := emptyAcc
    rxs := .awaitingStart
    feedback := Config.feedback
    timeoutMs := Config.timeoutMs
    handover := []
    tx := []
    inputs := []
    outs := []
    tick := 0 }

end Sys2Proof.Machine
end

