-- ==== Sys2Proof/Machine/Flags.lean ====
section
/-! DEFINITION. The classification outputs. The core stores no flags (spec 10_state.md R33); what takes their place are
the outputs of an event: the frame record, `peer_err`, `peer_code`, the peer error's name, and the result codes. -/

namespace Sys2Proof.Machine

/-- The record of ten bytes (R40). -/
def recordOf (d : Slots Byte) : Frame :=
  { start := d.start, version := d.ver, length := d.len, command := d.cmd, feedback := d.fb,
    param := half d.pm d.pl, checksum := half d.cm d.cl, endMarker := d.fin }

/-- The ten bytes of a record (R40: the map is a bijection). -/
def bytesOf (fr : Frame) : Slots Byte :=
  { start := fr.start, ver := fr.version, len := fr.length, cmd := fr.command, fb := fr.feedback,
    pm := hi fr.param, pl := lo fr.param, cm := hi fr.checksum, cl := lo fr.checksum, fin := fr.endMarker }

/-- `peer_err` and `peer_code` of a received frame (R236). -/
def peerReport (fr : Frame) : PeerReport :=
  { peerErr := fr.command == Config.peerErrorCmd, peerCode := fr.param }

/-- The name of the peer's sub-code, for a frame that reports one (R236, `PEER_CODE_MAP`). -/
def peerError (fr : Frame) : Option Config.PeerError :=
  if fr.command = Config.peerErrorCmd then some (Config.peerCodeMap fr.param) else none

/-- The number of a result on `rx_status` (R231). -/
def statusCode (r : Result) : BitVec 3 :=
  match r with
  | .none => 0#3
  | .frame _ => 1#3
  | .err .version => 2#3
  | .err .length => 3#3
  | .err .checksum => 4#3
  | .err .endMarker => 5#3
  | .err .timeout => 6#3

/-- The result ends nothing (R230). -/
def Result.isNone (r : Result) : Bool :=
  match r with
  | .none => true
  | .frame _ => false
  | .err _ => false

end Sys2Proof.Machine
end

