-- ==== Sys2Proof/Machine/Ops.lean ====
section
/-! DEFINITION. The shared operations: register access, the common encode step, restart and report (the core's form of
taking an exception), the byte event in every state, the timeout poll, and running events in sequence. -/

namespace Sys2Proof.Machine

/-! ### Running events -/

/-- What a run of events leaves: a state and their outputs, or the model's fault. -/
abbrev Ran := Except Fault (State × List EventOut)

/-- What one event leaves: a state and its outputs, or the model's fault. -/
abbrev RanOne := Except Fault (State × EventOut)

/-- A step that runs one event whose outputs are `o`: they replace those of the step before (R33). -/
def State.emit (s : State) (o : EventOut) : State := { s with outs := [o] }

/-- The outcome of a step that ran one event. -/
def finishOne (r : RanOne) : Outcome :=
  match r with
  | .ok (s, o) => .next (s.emit o)
  | .error f => .fault f

/-- The outcome of a step that ran several events. -/
def finish (r : Ran) : Outcome :=
  match r with
  | .ok (s, os) => .next { s with outs := os }
  | .error f => .fault f

/-- Run the second part of a step after the first; the outputs of both are the outputs of the step. -/
def chainOuts (o : Outcome) (f : State → Outcome) : Outcome :=
  match o with
  | .next s1 =>
    match f s1 with
    | .next s2 => .next { s2 with outs := s1.outs ++ s2.outs }
    | .fault r => .fault r
    | .refused r => .refused r
  | .fault r => .fault r
  | .refused r => .refused r

/-! ### The outbound frame register -/

/-- `OUT[0]` to `OUT[9]`, the hard-wired bytes included (R21, R23). -/
def State.outBytes (s : State) : Slots Byte :=
  { start := Config.startMarker, ver := Config.version, len := Config.length, cmd := s.out.cmd, fb := s.out.fb,
    pm := s.out.pm, pl := s.out.pl, cm := s.out.cm, cl := s.out.cl, fin := Config.endMarker }

/-- Replace `OUT[3..8]`, all six at once (R71). -/
def State.setOut (s : State) (o : OutReg) : State := { s with out := o }

/-- `EncodeCommon(op, p)` (R140). -/
def encodeCommon (op : Byte) (p : Half) (s : State) : State :=
  let fb := feedbackByte s.feedback
  let k := chk Config.version Config.length op fb (hi p) (lo p)
  s.setOut { cmd := op, fb := fb, pm := hi p, pl := lo p, cm := hi k, cl := lo k }

/-- An encode event: `EncodeCommon` with no output of its own (R140, R216). -/
def encodeEvent (op : Byte) (p : Half) (s : State) : Outcome := .next ((encodeCommon op p s).emit {})

/-! ### The receiver's registers -/

/-- Replace `RXS` and `ACC`. -/
def State.setRx (s : State) (r : RxState) (a : Slots (Option Byte)) : State := { s with rxs := r, acc := a }

/-- Read `ACC[i]`; an `EMPTY` slot is the model's fault (R29). -/
def readSlot (s : State) (i : Fin 10) : Except Fault Byte :=
  match slotAt s.acc i with
  | some b => .ok b
  | none => .error (.emptySlotRead i)

/-- Slots `0` to `n-1` hold the given bytes, slots `n` to `9` are `EMPTY` (R27). -/
def firstSlots (n : Nat) (d : Slots Byte) : Slots (Option Byte) :=
  let put (i : Nat) (b : Byte) : Option Byte := if i < n then some b else none
  { start := put 0 d.start, ver := put 1 d.ver, len := put 2 d.len, cmd := put 3 d.cmd, fb := put 4 d.fb,
    pm := put 5 d.pm, pl := put 6 d.pl, cm := put 7 d.cm, cl := put 8 d.cl, fin := put 9 d.fin }

/-- `Restart()` (R171). -/
def State.restart (s : State) : State := s.setRx .awaitingStart emptyAcc

/-- `raise <Kind>()`: restart and report (R171, R240). Nothing is saved and nothing is returned to (R243). -/
def raise (k : ErrKind) (s : State) : State × EventOut := (s.restart, { result := .err k })

/-! ### The byte event in each state -/

/-- State 0, `7E`: begin the accumulator and arm the timer (R172, D31). -/
def acceptStart (s : State) : State × EventOut :=
  (s.setRx .awaitingVersion { emptyAcc with start := some Config.startMarker }, { arm := some s.timeoutMs })

/-- State 0, any other byte: discarded, no report (R172). -/
def discardByte (s : State) : State × EventOut := (s, {})

/-- State 1, `FF` (R173). -/
def acceptVersion (s : State) : State × EventOut :=
  (s.setRx .awaitingLength { s.acc with ver := some Config.version }, {})

/-- State 2, `06` (R174). -/
def acceptLength (s : State) : State × EventOut :=
  (s.setRx .awaitingCommand { s.acc with len := some Config.length }, {})

/-- State 3: any byte is the command (R175). -/
def acceptCommand (b : Byte) (s : State) : State × EventOut :=
  (s.setRx .awaitingFeedback { s.acc with cmd := some b }, {})

/-- State 4: any byte is the feedback flag (R176). -/
def acceptFeedback (b : Byte) (s : State) : State × EventOut :=
  (s.setRx .awaitingParamMsb { s.acc with fb := some b }, {})

/-- State 5 (R177). -/
def acceptParamMsb (b : Byte) (s : State) : State × EventOut :=
  (s.setRx .awaitingParamLsb { s.acc with pm := some b }, {})

/-- State 6 (R178). -/
def acceptParamLsb (b : Byte) (s : State) : State × EventOut :=
  (s.setRx .awaitingChecksumMsb { s.acc with pl := some b }, {})

/-- State 7: not judged yet (R179). -/
def acceptChecksumMsb (b : Byte) (s : State) : State × EventOut :=
  (s.setRx .awaitingChecksumLsb { s.acc with cm := some b }, {})

/-- The checksum that the accumulated content bytes call for (R131, R180). -/
def accumulatedChecksum (s : State) : Except Fault Half := do
  let v ← readSlot s 1
  let l ← readSlot s 2
  let c ← readSlot s 3
  let f ← readSlot s 4
  let pm ← readSlot s 5
  let pl ← readSlot s 6
  return chk v l c f pm pl

/-- State 8: recompute and compare both checksum bytes at once (R180). -/
def judgeChecksum (b : Byte) (s : State) : RanOne := do
  let expected ← accumulatedChecksum s
  let m ← readSlot s 7
  if half m b = expected then
    return (s.setRx .awaitingEnd { s.acc with cl := some b }, {})
  else
    return raise .checksum s

/-- The ten bytes of a completed frame: `ACC[0..8]` and the end marker (R181). -/
def completedFrame (s : State) : Except Fault (Slots Byte) := do
  let d0 ← readSlot s 0
  let d1 ← readSlot s 1
  let d2 ← readSlot s 2
  let d3 ← readSlot s 3
  let d4 ← readSlot s 4
  let d5 ← readSlot s 5
  let d6 ← readSlot s 6
  let d7 ← readSlot s 7
  let d8 ← readSlot s 8
  return { start := d0, ver := d1, len := d2, cmd := d3, fb := d4, pm := d5, pl := d6, cm := d7, cl := d8,
           fin := Config.endMarker }

/-- State 9, `EF`: the frame is copied into the result, then the receiver restarts (R181, R236). -/
def deliverFrame (s : State) : RanOne := do
  let d ← completedFrame s
  return (s.restart, { result := .frame (recordOf d), peer := some (peerReport (recordOf d)) })

/-- `RxByte(b)`, judged by the current state (R172 to R181). -/
def rxByteEvent (b : Byte) (s : State) : RanOne :=
  match s.rxs with
  | .awaitingStart => .ok (if b = Config.startMarker then acceptStart s else discardByte s)
  | .awaitingVersion => .ok (if b = Config.version then acceptVersion s else raise .version s)
  | .awaitingLength => .ok (if b = Config.length then acceptLength s else raise .length s)
  | .awaitingCommand => .ok (acceptCommand b s)
  | .awaitingFeedback => .ok (acceptFeedback b s)
  | .awaitingParamMsb => .ok (acceptParamMsb b s)
  | .awaitingParamLsb => .ok (acceptParamLsb b s)
  | .awaitingChecksumMsb => .ok (acceptChecksumMsb b s)
  | .awaitingChecksumLsb => judgeChecksum b s
  | .awaitingEnd => if b = Config.endMarker then deliverFrame s else .ok (raise .endMarker s)

/-- `RxIdle(expired)` (R182). -/
def rxIdleEvent (expired : Bool) (s : State) : State × EventOut :=
  if s.rxs ≠ .awaitingStart ∧ expired = true then raise .timeout s else (s, {})

/-- An RXEVT instruction runs in the state that its key names (R113). -/
def inState (r : RxState) (s : State) (ran : RanOne) : Outcome :=
  if s.rxs = r then finishOne ran else .refused .selectorMismatch

/-- Byte events one after the other. -/
def rxBytes (bs : List Byte) (s : State) : Ran :=
  match bs with
  | [] => .ok (s, [])
  | b :: rest =>
    match rxByteEvent b s with
    | .error f => .error f
    | .ok (s1, o) =>
      match rxBytes rest s1 with
      | .error f => .error f
      | .ok (s2, os) => .ok (s2, o :: os)

/-! ### The receive call -/

/-- Ten bytes as ten byte events (R109: each byte is judged by itself). -/
def lineEvents (F : FrameWord) : List Input := (wireOrder (wireBytes F)).map (fun b => .event (.rxByte b))

/-- The inputs with the lines among the first polls written out as their byte events. -/
def asPolls (ins : List Input) : List Input :=
  match ins with
  | .line F :: rest => lineEvents F ++ asPolls rest
  | .event (.rxByte b) :: rest => .event (.rxByte b) :: asPolls rest
  | .event (.rxIdle expired) :: rest => .event (.rxIdle expired) :: asPolls rest
  | other => other

/-- What the environment presents to a call that is still waiting: an input that is no poll comes first, then the call
goes on (notes/assumptions/10.md). -/
def stillWaiting (ins : List Input) : List Input :=
  match ins with
  | [] => [.event .receiveFrame]
  | x :: rest => x :: .event .receiveFrame :: rest

/-- The loop of `receiveFrame()` (R214) over the polls that the environment presents: it ends at the first event whose
result is not `NONE`, and leaves later inputs where they are. Where the polls run out first, the call is still
waiting. -/
def receiveLoop (ins : List Input) (s : State) : Ran :=
  match ins with
  | .event (.rxByte b) :: rest =>
    match rxByteEvent b s with
    | .error f => .error f
    | .ok (s1, o) =>
      if o.result.isNone then
        match receiveLoop rest s1 with
        | .error f => .error f
        | .ok (s2, os) => .ok (s2, o :: os)
      else .ok ({ s1 with inputs := rest }, [o])
  | .event (.rxIdle expired) :: rest =>
    let (s1, o) := rxIdleEvent expired s
    if o.result.isNone then
      match receiveLoop rest s1 with
      | .error f => .error f
      | .ok (s2, os) => .ok (s2, o :: os)
    else .ok ({ s1 with inputs := rest }, [o])
  | other => .ok ({ s with inputs := stillWaiting other }, [])

/-! ### The transmit side -/

/-- The ten bytes of `OUT` go to the transmit stream, byte 0 first, after those of any earlier `Send` (R75, R215). -/
def State.sendFrame (s : State) : State :=
  { s with tx := s.tx ++ s.handover ++ wireOrder s.outBytes, handover := [] }

/-- The clocked binding accepts a `Send`: the ten bytes are held for the hand-over (R215, R285). -/
def State.acceptSend (s : State) : State := { s with handover := wireOrder s.outBytes }

/-- One cycle of a hand-over: a byte goes out when `tx_ready` is 1 (R44). -/
def State.handOver (s : State) (ready : Bool) : State :=
  match s.handover with
  | [] => s
  | b :: rest => if ready then { s with handover := rest, tx := s.tx ++ [b] } else s

/-! ### Reset, load, and inputs -/

/-- `Reset` (R270); a hand-over in progress stops (R271). The environment's streams and straps stay. -/
def State.resetCore (s : State) : State :=
  { s with out := resetOut, acc := emptyAcc, rxs := .awaitingStart, handover := [] }

/-- `RxLoad(d)`: the ten slots take the bytes and any reassembly is abandoned (R212). -/
def State.load (s : State) (d : Slots Byte) : State :=
  s.setRx .awaitingStart (firstSlots 10 d)

/-- The next input has been taken, and this is one step more. -/
def State.taking (s : State) (rest : List Input) : State := { s with inputs := rest, tick := s.tick + 1 }

/-- No input waits: no event, no output (R42, R46; notes/assumptions/13.md). -/
def State.idleStep (s : State) : State := { s with outs := [], tick := s.tick + 1 }

end Sys2Proof.Machine
end

