-- ==== Sys2Proof/Machine/Encoder.lean ====
section
/-! DEFINITION. The twelve encode operations and the refused request (spec 41_encoder.md). -/

namespace Sys2Proof.Machine

/-- play-next (R143). The operands are ignored (R156). -/
def execPlayNext (_a : Half) (_b : Byte) (s : State) : Outcome := encodeEvent 0x01#8 0#16 s

/-- play-previous (R144). -/
def execPlayPrevious (_a : Half) (_b : Byte) (s : State) : Outcome := encodeEvent 0x02#8 0#16 s

/-- play-track (R145): the parameter is `min(a, 2999)`. -/
def execPlayTrack (a : Half) (_b : Byte) (s : State) : Outcome := encodeEvent 0x03#8 (trackParam a) s

/-- increment-volume (R146). -/
def execIncrementVolume (_a : Half) (_b : Byte) (s : State) : Outcome := encodeEvent 0x04#8 0#16 s

/-- decrement-volume (R147). -/
def execDecrementVolume (_a : Half) (_b : Byte) (s : State) : Outcome := encodeEvent 0x05#8 0#16 s

/-- set-volume (R148): the parameter is `min(a, 30)`. -/
def execSetVolume (a : Half) (_b : Byte) (s : State) : Outcome := encodeEvent 0x06#8 (volumeParam a) s

/-- set-playback-source (R149): `a` if it is 1 to 4, else 2. -/
def execSetPlaybackSource (a : Half) (_b : Byte) (s : State) : Outcome := encodeEvent 0x09#8 (sourceParam a) s

/-- enter-standby (R150). -/
def execEnterStandby (_a : Half) (_b : Byte) (s : State) : Outcome := encodeEvent 0x0A#8 0#16 s

/-- enter-normal (R151). -/
def execEnterNormal (_a : Half) (_b : Byte) (s : State) : Outcome := encodeEvent 0x0B#8 0#16 s

/-- factory-reset (R152): a request to the peer; it does not reset the core. -/
def execFactoryReset (_a : Half) (_b : Byte) (s : State) : Outcome := encodeEvent 0x0C#8 0#16 s

/-- pause (R153). -/
def execPause (_a : Half) (_b : Byte) (s : State) : Outcome := encodeEvent 0x0E#8 0#16 s

/-- play-folder-track (R154): clamped folder in the MSB, floored track in the LSB. -/
def execPlayFolderTrack (a : Half) (b : Byte) (s : State) : Outcome := encodeEvent 0x0F#8 (folderParam a b) s

/-- ENC_REFUSED (R155): nothing changes and `enc_refused` pulses. -/
def execEncRefused (_op : Byte) (_a : Half) (_b : Byte) (s : State) : Outcome := .next (s.emit { encRefused := true })

end Sys2Proof.Machine
end

