-- ==== Sys2Proof/Machine/Receiver.lean ====
section
/-! DEFINITION. The receiver's byte events, one per RXEVT row, the timeout poll, and whole inbound frames (spec
42_receiver.md, 60_exceptions.md R236). -/

namespace Sys2Proof.Machine

/-- rx.start (R172). -/
def execRxStart (s : State) : Outcome := inState .awaitingStart s (.ok (acceptStart s))

/-- rx.discard (R172). -/
def execRxDiscard (_b : Byte) (s : State) : Outcome := inState .awaitingStart s (.ok (discardByte s))

/-- rx.version.ok (R173). -/
def execRxVersionOk (s : State) : Outcome := inState .awaitingVersion s (.ok (acceptVersion s))

/-- rx.version.bad (R173, R232). -/
def execRxVersionBad (_b : Byte) (s : State) : Outcome := inState .awaitingVersion s (.ok (raise .version s))

/-- rx.length.ok (R174). -/
def execRxLengthOk (s : State) : Outcome := inState .awaitingLength s (.ok (acceptLength s))

/-- rx.length.bad (R174, R233). -/
def execRxLengthBad (_b : Byte) (s : State) : Outcome := inState .awaitingLength s (.ok (raise .length s))

/-- rx.command (R175). -/
def execRxCommand (b : Byte) (s : State) : Outcome := inState .awaitingCommand s (.ok (acceptCommand b s))

/-- rx.feedback (R176). -/
def execRxFeedback (b : Byte) (s : State) : Outcome := inState .awaitingFeedback s (.ok (acceptFeedback b s))

/-- rx.param-msb (R177). -/
def execRxParamMsb (b : Byte) (s : State) : Outcome := inState .awaitingParamMsb s (.ok (acceptParamMsb b s))

/-- rx.param-lsb (R178). -/
def execRxParamLsb (b : Byte) (s : State) : Outcome := inState .awaitingParamLsb s (.ok (acceptParamLsb b s))

/-- rx.checksum-msb (R179). -/
def execRxChecksumMsb (b : Byte) (s : State) : Outcome := inState .awaitingChecksumMsb s (.ok (acceptChecksumMsb b s))

/-- rx.checksum-lsb (R180, R234). -/
def execRxChecksumLsb (b : Byte) (s : State) : Outcome := inState .awaitingChecksumLsb s (judgeChecksum b s)

/-- rx.end.ok (R181). -/
def execRxEndOk (s : State) : Outcome := inState .awaitingEnd s (deliverFrame s)

/-- rx.end.bad (R181, R235). -/
def execRxEndBad (_b : Byte) (s : State) : Outcome := inState .awaitingEnd s (.ok (raise .endMarker s))

/-- RX_IDLE (R182, R237). -/
def execRxIdle (expired : Bool) (s : State) : Outcome := finishOne (.ok (rxIdleEvent expired s))

/-- peer-error-frame (R236): the ten bytes of the frame, one byte event each. -/
def execPeerErrorFrame (fb : Byte) (param ck : Half) (s : State) : Outcome :=
  finish (rxBytes (wireOrder (frameAround Config.peerErrorCmd fb param ck)) s)

/-- good-frame (R183): the ten bytes of the frame, one byte event each. -/
def execGoodFrame (cmd fb : Byte) (param ck : Half) (s : State) : Outcome :=
  finish (rxBytes (wireOrder (frameAround cmd fb param ck)) s)

end Sys2Proof.Machine
end

