-- ==== Sys2Proof/Machine/Surface.lean ====
section
/-! DEFINITION. The surface operations, reset, and a direct call of the checksum engine (spec 43_surface_ops.md,
70_reset_and_hazards.md R270, 40_checksum.md R130). -/

namespace Sys2Proof.Machine

/-- RX_LOAD (R212): no check, no report, the timer is not touched. -/
def execRxLoad (d : Slots Byte) (s : State) : Outcome := .next ((s.load d).emit {})

/-- RX_ABORT (R213): restart without a report. -/
def execRxAbort (s : State) : Outcome := .next (s.restart.emit {})

/-- TX_SEND (R215). -/
def execTxSend (s : State) : Outcome := .next (s.sendFrame.emit {})

/-- GET_FRAME_BYTES (R210). -/
def execGetFrameBytes (s : State) : Outcome := .next (s.emit { frameBytes := some s.outBytes })

/-- GET_FRAME_RECORD (R211). -/
def execGetFrameRecord (s : State) : Outcome := .next (s.emit { frameRecord := some (recordOf s.outBytes) })

/-- RECEIVE_FRAME (R214): the polls until the first result. -/
def execReceiveFrame (s : State) : Outcome := finish (receiveLoop (asPolls s.inputs) s)

/-- RESET (R270, R271). -/
def execReset (s : State) : Outcome := .next (s.resetCore.emit {})

/-- CHK (R130): a pure function; its answer is the only output and no state changes. -/
def execChk (v l c f pm pl : Byte) (s : State) : Outcome := .next (s.emit { checksum := some (chk v l c f pm pl) })

end Sys2Proof.Machine
end

