-- ==== Sys2Proof/Machine/Dispatch.lean ====
section
/-! DEFINITION. The meaning of every instruction, one arm per constructor. -/

namespace Sys2Proof.Machine

def exec (i : Instr) (s : State) : Host.Outcome State Fault Refusal :=
  match i with
  | .playNext a b => Sys2Proof.Machine.execPlayNext a b s
  | .playPrevious a b => Sys2Proof.Machine.execPlayPrevious a b s
  | .playTrack a b => Sys2Proof.Machine.execPlayTrack a b s
  | .incrementVolume a b => Sys2Proof.Machine.execIncrementVolume a b s
  | .decrementVolume a b => Sys2Proof.Machine.execDecrementVolume a b s
  | .setVolume a b => Sys2Proof.Machine.execSetVolume a b s
  | .setPlaybackSource a b => Sys2Proof.Machine.execSetPlaybackSource a b s
  | .enterStandby a b => Sys2Proof.Machine.execEnterStandby a b s
  | .enterNormal a b => Sys2Proof.Machine.execEnterNormal a b s
  | .factoryReset a b => Sys2Proof.Machine.execFactoryReset a b s
  | .pause a b => Sys2Proof.Machine.execPause a b s
  | .playFolderTrack a b => Sys2Proof.Machine.execPlayFolderTrack a b s
  | .peerErrorFrame fb param ck => Sys2Proof.Machine.execPeerErrorFrame fb param ck s
  | .goodFrame cmd fb param ck => Sys2Proof.Machine.execGoodFrame cmd fb param ck s
  | .rxStart => Sys2Proof.Machine.execRxStart s
  | .rxDiscard b => Sys2Proof.Machine.execRxDiscard b s
  | .rxVersionOk => Sys2Proof.Machine.execRxVersionOk s
  | .rxVersionBad b => Sys2Proof.Machine.execRxVersionBad b s
  | .rxLengthOk => Sys2Proof.Machine.execRxLengthOk s
  | .rxLengthBad b => Sys2Proof.Machine.execRxLengthBad b s
  | .rxCommand b => Sys2Proof.Machine.execRxCommand b s
  | .rxFeedback b => Sys2Proof.Machine.execRxFeedback b s
  | .rxParamMsb b => Sys2Proof.Machine.execRxParamMsb b s
  | .rxParamLsb b => Sys2Proof.Machine.execRxParamLsb b s
  | .rxChecksumMsb b => Sys2Proof.Machine.execRxChecksumMsb b s
  | .rxChecksumLsb b => Sys2Proof.Machine.execRxChecksumLsb b s
  | .rxEndOk => Sys2Proof.Machine.execRxEndOk s
  | .rxEndBad b => Sys2Proof.Machine.execRxEndBad b s
  | .rxIdle expired => Sys2Proof.Machine.execRxIdle expired s
  | .rxLoad d => Sys2Proof.Machine.execRxLoad d s
  | .rxAbort => Sys2Proof.Machine.execRxAbort s
  | .txSend => Sys2Proof.Machine.execTxSend s
  | .getFrameBytes => Sys2Proof.Machine.execGetFrameBytes s
  | .getFrameRecord => Sys2Proof.Machine.execGetFrameRecord s
  | .receiveFrame => Sys2Proof.Machine.execReceiveFrame s
  | .reset => Sys2Proof.Machine.execReset s
  | .chk v l c f pm pl => Sys2Proof.Machine.execChk v l c f pm pl s
  | .encRefused op a b => Sys2Proof.Machine.execEncRefused op a b s

end Sys2Proof.Machine
end

