-- ==== Sys2Proof/Machine/Binding.lean ====
section
/-! DEFINITION. The clocked port binding (spec 10_state.md R44 to R46): which events a cycle makes, what one cycle does,
and the output ports. -/

namespace Sys2Proof.Machine

/-- The one receiver event of a cycle without reset, by priority (R45, R239). -/
def receiverEvent (p : InPorts) : Event :=
  if p.rxAbort then .rxAbort
  else if p.rxLoad then .rxLoad (wireBytes p.rxLoadData)
  else if p.rxValid then .rxByte p.rxData
  else .rxIdle p.tmrExpired

/-- The encoder's part of a cycle without reset (R45): while bytes are being handed over it takes no event and one byte
goes out if the transport is ready; otherwise an encode request if there is one, then a `Send` of the new frame. -/
def encoderCycle (p : InPorts) (s : State) : Outcome :=
  match s.handover with
  | _ :: _ => .next { s.handOver p.txReady with outs := [] }
  | [] =>
    chainOuts
      (if p.encValid then exec (decodeRequest p.encOp p.encA p.encB) s else .next { s with outs := [] })
      (fun s1 => .next { (if p.txSend then s1.acceptSend else s1) with outs := [] })

/-- One clock cycle (R45): `Reset` alone when `rst` is 1, else the receiver's event and the encoder's part. DESIGN CHOICE,
notes/assumptions/28.md: in a cycle with `rst` 1 the byte that a hand-over offers is not given, even with `tx_ready` 1. -/
def cycle (p : InPorts) (s : State) : Outcome :=
  if p.rst then exec .reset s
  else chainOuts (exec (decodeEvent s.rxs (receiverEvent p)) s) (encoderCycle p)

/-- The output ports (R44). -/
structure OutPorts where
  encReady : Bool
  encRefused : Bool
  outFrame : FrameWord
  txBusy : Bool
  txValid : Bool
  txData : Byte
  rxTake : Bool
  tmrArm : Bool
  tmrDuration : Nat
  rxStatus : BitVec 3
  rxFrame : FrameWord
  rxPeerErr : Bool
  rxPeerCode : Half
  rxState : BitVec 4
  rxAcc : FrameWord
  deriving DecidableEq, Repr

/-- `tx_busy`: bytes of an accepted `Send` are left (R44). -/
def State.txBusy (s : State) : Bool := !s.handover.isEmpty

/-- The result that the outputs of a step carry: a cycle has one receiver event, so at most one is not `NONE`. Of a step
of several receiver events, which is no cycle, it is the first (notes/assumptions/8.md). -/
def resultOf (os : List EventOut) : Result :=
  match os.find? (fun o => !o.result.isNone) with
  | some o => o.result
  | none => .none

/-- `rx_acc`: an `EMPTY` slot reads as an unspecified byte (R26, R44). -/
def State.accView (s : State) : Slots Byte :=
  let shown (i : Fin 10) : Byte := (slotAt s.acc i).getD (Config.emptySlotByte s.tick i)
  { start := shown 0, ver := shown 1, len := shown 2, cmd := shown 3, fb := shown 4, pm := shown 5, pl := shown 6,
    cm := shown 7, cl := shown 8, fin := shown 9 }

/-- The byte consumed in this cycle, if any: `rx_take` (R44, R45). -/
def rxTake (p : InPorts) : Bool := !p.rst && !p.rxAbort && !p.rxLoad && p.rxValid

/-- The output ports in a state, with the input ports of the cycle for `rx_take` (R44, R46). Where R44 calls a port not
valid and R46 does not make it 0, its value is free (notes/assumptions/16.md). -/
def State.outPorts (s : State) (p : InPorts) : OutPorts :=
  { encReady := !s.txBusy
    encRefused := s.outs.any (fun o => o.encRefused)
    outFrame := wireWord s.outBytes
    txBusy := s.txBusy
    txValid := s.txBusy
    txData := s.handover.head?.getD (Config.invalidTxData s.tick)
    rxTake := rxTake p
    tmrArm := s.outs.any (fun o => o.arm.isSome)
    tmrDuration := s.timeoutMs
    rxStatus := statusCode (resultOf s.outs)
    rxFrame :=
      match resultOf s.outs with
      | .none => 0#80
      | .frame fr => wireWord (bytesOf fr)
      | .err _ => Config.invalidRxFrame s.tick
    rxPeerErr :=
      match resultOf s.outs with
      | .none => false
      | .frame fr => (peerReport fr).peerErr
      | .err _ => Config.invalidPeerErr s.tick
    rxPeerCode :=
      match resultOf s.outs with
      | .none => 0#16
      | .frame fr => (peerReport fr).peerCode
      | .err _ => Config.invalidPeerCode s.tick
    rxState := s.rxs.code
    rxAcc := wireWord s.accView }

end Sys2Proof.Machine
end

