-- ==== Sys2Proof/Machine/Fetch.lean ====
section
/-! DEFINITION. Taking the next input: from the environment's script to the instruction that runs, and placing an
instruction where the next step takes it. -/

namespace Sys2Proof.Machine

/-- Run a line of ten bytes: an inbound frame row is one instruction; any other ten bytes become ten byte events, which
the following steps take (notes/assumptions/23.md). -/
def runLine (F : FrameWord) (s : State) : Outcome :=
  match decodeInbound F with
  | .ok i => exec i s
  | .error _ => .next { s with inputs := lineEvents F ++ s.inputs, outs := [] }

/-- Take one input in a state that no longer lists it. -/
def runInput (x : Input) (s : State) : Outcome :=
  match x with
  | .event e => exec (decodeEvent s.rxs e) s
  | .line F => runLine F s
  | .cycle p => cycle p s

/-- An accumulator as the receiver in state `r` has filled it (R27), with the contents of the reset frame. -/
def filledTo (r : RxState) : Slots (Option Byte) :=
  firstSlots r.code.toNat (frameFor 0x00#8 0x00#8 0#16)

/-- The input that presents an outbound or inbound frame's instruction (notes/assumptions/20.md). -/
def frameInput (F : FrameWord) : Input :=
  match decodeOutbound F with
  | .error _ => .line F
  | .ok i =>
    match encode i with
    | some (.request op a b) => .event (.enc op a b)
    | some (.outbound _) => .line F
    | some (.inbound _) => .line F
    | some (.rxEvent _) => .line F
    | none => .line F

/-- Place a receiver byte event: the state that its key names, an accumulator filled for it, and the byte as the next
input. A key that names no state places nothing. -/
def State.placeRxKey (s : State) (k : RxKey) : State :=
  match RxState.ofCode (keyState k) with
  | some r => { s with rxs := r, acc := filledTo r, inputs := .event (.rxByte (keyByte k)) :: s.inputs }
  | none => s

/-- Place a frame's instruction as the next input. -/
def State.placeFrame (s : State) (F : FrameWord) : State := { s with inputs := frameInput F :: s.inputs }

end Sys2Proof.Machine
end

