-- ==== Sys2Proof/Machine/Step.lean ====
section
/-! DEFINITION. The step: take the next input of the environment's script and run it. -/

namespace Sys2Proof.Machine

/-- One step (spec 00_scope.md R8: one event at a time). Where no input waits, no event happens. -/
def step (s : State) : Host.Outcome State Fault Refusal :=
  match s.inputs with
  | [] => .next s.idleStep
  | x :: rest => runInput x (s.taking rest)

/-- The instruction whose bits are `w` stands where `step` takes its next input: an RXEVT key (at most 16 bits, the
upper four 0) or a FRAME80 word (notes/assumptions/20.md). -/
def State.withFetchWord (s : State) (nbits w : Nat) : State :=
  if nbits ≤ 16 then
    if w < 4096 then s.placeRxKey (BitVec.ofNat 12 w) else s
  else s.placeFrame (BitVec.ofNat 80 w)

end Sys2Proof.Machine
end

