-- ==== Sys2Proof/Safety.lean ====
section
/-! DEFINITION. The terms that claims about the core use: the invariants of `OUT` and `ACC`, a good frame, and which
instructions are the encoder's and which the receiver's. -/

namespace Sys2Proof.Machine

/-- The invariant of `OUT` (spec 10_state.md R24): the stored checksum is `CHK` of the stored contents, and the feedback
byte is `FEEDBACK`, but in the reset frame, where it is 0. -/
def OutInv (s : State) : Prop :=
  half s.out.cm s.out.cl = expectedChecksum s.outBytes ∧ (s.out.fb = feedbackByte s.feedback ∨ s.out = resetOut)

/-- What the bytes taken so far satisfy while the receiver is in the state numbered `n` (R27). -/
def PrefixGood (n : Nat) (d : Slots Byte) : Prop :=
  d.start = Config.startMarker ∧ (2 ≤ n → d.ver = Config.version) ∧ (3 ≤ n → d.len = Config.length) ∧
    (n = 9 → half d.cm d.cl = expectedChecksum d)

/-- The fill invariant of `ACC` (R27): in state 0 every slot is `EMPTY`, or every slot holds a loaded byte; in state
`n ≥ 1` exactly the slots `0` to `n-1` are filled, with bytes that the receiver has accepted. -/
def AccInv (s : State) : Prop :=
  if s.rxs = .awaitingStart then s.acc = emptyAcc ∨ ∃ d : Slots Byte, s.acc = firstSlots 10 d
  else ∃ d : Slots Byte, s.acc = firstSlots s.rxs.code.toNat d ∧ PrefixGood s.rxs.code.toNat d

/-- The invariant of the core. -/
def Inv (s : State) : Prop := OutInv s ∧ AccInv s

/-- What every `FRAME` result satisfies (R183). -/
def FrameGood (fr : Frame) : Prop :=
  fr.start = Config.startMarker ∧ fr.version = Config.version ∧ fr.length = Config.length ∧
    fr.endMarker = Config.endMarker ∧
    fr.checksum = chk fr.version fr.length fr.command fr.feedback (hi fr.param) (lo fr.param)

/-- The instruction is one of the twelve encode operations, with its operation number (R104). -/
def encodeOp (i : Instr) : Option Byte :=
  match i with
  | .playNext _ _ => some 0x01#8
  | .playPrevious _ _ => some 0x02#8
  | .playTrack _ _ => some 0x03#8
  | .incrementVolume _ _ => some 0x04#8
  | .decrementVolume _ _ => some 0x05#8
  | .setVolume _ _ => some 0x06#8
  | .setPlaybackSource _ _ => some 0x09#8
  | .enterStandby _ _ => some 0x0A#8
  | .enterNormal _ _ => some 0x0B#8
  | .factoryReset _ _ => some 0x0C#8
  | .pause _ _ => some 0x0E#8
  | .playFolderTrack _ _ => some 0x0F#8
  | .peerErrorFrame _ _ _ => none
  | .goodFrame _ _ _ _ => none
  | .rxStart => none
  | .rxDiscard _ => none
  | .rxVersionOk => none
  | .rxVersionBad _ => none
  | .rxLengthOk => none
  | .rxLengthBad _ => none
  | .rxCommand _ => none
  | .rxFeedback _ => none
  | .rxParamMsb _ => none
  | .rxParamLsb _ => none
  | .rxChecksumMsb _ => none
  | .rxChecksumLsb _ => none
  | .rxEndOk => none
  | .rxEndBad _ => none
  | .rxIdle _ => none
  | .rxLoad _ => none
  | .rxAbort => none
  | .txSend => none
  | .getFrameBytes => none
  | .getFrameRecord => none
  | .receiveFrame => none
  | .reset => none
  | .chk _ _ _ _ _ _ => none
  | .encRefused _ _ _ => none

/-- The event belongs to ENC (R9): encode requests, `Send`, the accessors. -/
def encoderEvent (e : Event) : Bool :=
  match e with
  | .enc _ _ _ => true
  | .send => true
  | .getFrameBytes => true
  | .getFrameRecord => true
  | .rxByte _ => false
  | .rxIdle _ => false
  | .rxLoad _ => false
  | .rxAbort => false
  | .receiveFrame => false
  | .reset => false
  | .chk _ _ _ _ _ _ => false

/-- The event belongs to RCV (R9): `RxByte`, `RxIdle`, `RxLoad`, `RxAbort`. -/
def rcvEvent (e : Event) : Bool :=
  match e with
  | .enc _ _ _ => false
  | .send => false
  | .getFrameBytes => false
  | .getFrameRecord => false
  | .rxByte _ => true
  | .rxIdle _ => true
  | .rxLoad _ => true
  | .rxAbort => true
  | .receiveFrame => false
  | .reset => false
  | .chk _ _ _ _ _ _ => false

/-- A poll of the receive loop (R214): `RxByte` or `RxIdle`. -/
def isPoll (x : Input) : Bool :=
  match x with
  | .event (.rxByte _) => true
  | .event (.rxIdle _) => true
  | .event _ => false
  | .line _ => false
  | .cycle _ => false

/-- What R140 says of an encode operation with number `op` and parameter bytes `pm`, `pl`: it completes, the ten bytes
of `OUT` are the frame with the checksum of its contents, and nothing else changes. -/
def Builds (i : Instr) (op pm pl : Byte) (s : State) : Prop :=
  ∃ k : Half, k = chk 0xFF#8 0x06#8 op (if s.feedback then 1#8 else 0#8) pm pl ∧
    ∃ t, exec i s = .next t ∧
      wireOrder t.outBytes =
        [0x7E#8, 0xFF#8, 0x06#8, op, if s.feedback then 1#8 else 0#8, pm, pl, hi k, lo k, 0xEF#8] ∧
      t = { s with out := t.out, outs := [{}] }

/-- The byte completes the checksum (R180): with the checksum MSB in the accumulator it is `CHK` of the six accumulated
content bytes. -/
def ChecksumFits (s : State) (b : Byte) : Prop :=
  ∃ v l c f pm pl m : Byte, s.acc.ver = some v ∧ s.acc.len = some l ∧ s.acc.cmd = some c ∧ s.acc.fb = some f ∧
    s.acc.pm = some pm ∧ s.acc.pl = some pl ∧ s.acc.cm = some m ∧
    m.toNat * 256 + b.toNat = (chk v l c f pm pl).toNat

/-- `n` steps, stopping at the first fault or refusal. -/
def runSteps (n : Nat) (s : State) : Outcome :=
  match n with
  | 0 => .next s
  | k + 1 =>
    match step s with
    | .next s1 => runSteps k s1
    | .fault r => .fault r
    | .refused r => .refused r

end Sys2Proof.Machine
end

