-- ==== Sys2Proof/Certificates/Slice0/Obligations.lean ====
section
/-! DEFINITION. The statements about the framing core. Rule numbers are those of spec/. -/

open Sys2Proof Sys2Proof.Machine

/-! ### The checksum engine -/

/-- R130, in the equivalent forms of R133 (derived by the spec from R130): `CHK` is 0 for the sum 0 and 65536 less the
sum otherwise; sum and checksum cancel modulo 65536; and a 16-bit value cancels the sum exactly when it is the
checksum, so both ways to check a frame accept the same frames. -/
def Obligations.ChkNegatesTheSum : Prop :=
  ∀ v l c f pm pl : Byte, ∀ s : Nat,
    s = v.toNat + l.toNat + c.toNat + f.toNat + pm.toNat + pl.toNat →
    (chk v l c f pm pl).toNat = (if s = 0 then 0 else 65536 - s) ∧
    (s + (chk v l c f pm pl).toNat) % 65536 = 0 ∧
    ∀ k : Half, k = chk v l c f pm pl ↔ (s + k.toNat) % 65536 = 0

/-- R135 (derived by the spec from R130): the range of the checksum, over all inputs and over frames with the good
version and length, whose checksum MSB is one of five; and the receiver, which does not use this, accepts any checksum
MSB. -/
def Obligations.ChkRange : Prop :=
  (∀ v l c f pm pl : Byte, chk v l c f pm pl = 0#16 ∨ 0xFA06 ≤ (chk v l c f pm pl).toNat) ∧
  (∀ c f pm pl : Byte,
    0xFAFF ≤ (chk 0xFF#8 0x06#8 c f pm pl).toNat ∧ (chk 0xFF#8 0x06#8 c f pm pl).toNat ≤ 0xFEFB ∧
    hi (chk 0xFF#8 0x06#8 c f pm pl) ∈ [0xFA#8, 0xFB#8, 0xFC#8, 0xFD#8, 0xFE#8]) ∧
  (∀ (b : Byte) (s : State), s.rxs = .awaitingChecksumMsb →
    exec (.rxChecksumMsb b) s =
      .next { s with rxs := .awaitingChecksumLsb, acc := { s.acc with cm := some b }, outs := [{}] })

/-- R136, R134 (derived by the spec from R130): the checksum depends on the sum of the six bytes alone, and is 0 only
when all six are 0. -/
def Obligations.ChkDependsOnTheSum : Prop :=
  (∀ v l c f pm pl v' l' c' f' pm' pl' : Byte,
    v.toNat + l.toNat + c.toNat + f.toNat + pm.toNat + pl.toNat =
      v'.toNat + l'.toNat + c'.toNat + f'.toNat + pm'.toNat + pl'.toNat →
    chk v l c f pm pl = chk v' l' c' f' pm' pl') ∧
  (∀ v l c f pm pl : Byte,
    chk v l c f pm pl = 0#16 ↔ v = 0#8 ∧ l = 0#8 ∧ c = 0#8 ∧ f = 0#8 ∧ pm = 0#8 ∧ pl = 0#8)

/-- R130: a call of `CHK` answers the 16-bit negation of the sum, and leaves everything else as it was. That the call
is a step with its answer among the outputs is the model's choice, notes/assumptions/9.md. -/
def Obligations.ChkAnswers : Prop :=
  ∀ (v l c f pm pl : Byte) (s : State),
    exec (.chk v l c f pm pl) s =
      .next { s with outs := [{ checksum := some (BitVec.ofNat 16
        (65536 - (v.toNat + l.toNat + c.toNat + f.toNat + pm.toNat + pl.toNat))) }] }

/-! ### The encoder -/

/-- R143, R144, R146, R147, R150 to R153, R156: the eight operations without operands. Each request number names its
operation, whatever the operands; the operation leaves the frame `7E FF 06 op 0f 00 00 cm cl EF` in `OUT`, has no
output, and changes nothing else. -/
def Obligations.NoOperandOperationsBuildTheirFrame : Prop :=
  ∀ p ∈ ([(Instr.playNext, 0x01#8), (Instr.playPrevious, 0x02#8), (Instr.incrementVolume, 0x04#8),
      (Instr.decrementVolume, 0x05#8), (Instr.enterStandby, 0x0A#8), (Instr.enterNormal, 0x0B#8),
      (Instr.factoryReset, 0x0C#8), (Instr.pause, 0x0E#8)] : List ((Half → Byte → Instr) × Byte)),
    ∀ (a : Half) (b : Byte) (s : State), ∃ k : Half,
      k = chk 0xFF#8 0x06#8 p.2 (if s.feedback then 1#8 else 0#8) 0#8 0#8 ∧
      decodeRequest p.2 a b = p.1 a b ∧
      ∃ t, exec (p.1 a b) s = .next t ∧
        wireOrder t.outBytes =
          [0x7E#8, 0xFF#8, 0x06#8, p.2, if s.feedback then 1#8 else 0#8, 0#8, 0#8, hi k, lo k, 0xEF#8] ∧
        t = { s with out := t.out, outs := [{}] }

/-- R145: play-track builds the frame whose 16-bit parameter is `min(a, 2999)`; `b` is ignored. -/
def Obligations.PlayTrackBuildsClampedFrame : Prop :=
  ∀ (a : Half) (b : Byte) (s : State),
    decodeRequest 0x03#8 a b = .playTrack a b ∧
    Builds (.playTrack a b) 0x03#8 (BitVec.ofNat 8 (min a.toNat 2999 / 256))
      (BitVec.ofNat 8 (min a.toNat 2999 % 256)) s

/-- R148: set-volume builds the frame with parameter bytes 0 and `min(a, 30)`, compared on all 16 bits of `a`. -/
def Obligations.SetVolumeBuildsClampedFrame : Prop :=
  ∀ (a : Half) (b : Byte) (s : State),
    decodeRequest 0x06#8 a b = .setVolume a b ∧
    Builds (.setVolume a b) 0x06#8 0#8 (BitVec.ofNat 8 (min a.toNat 30)) s

/-- R149: set-playback-source builds the frame with the source 1 to 4, and any other value replaced by 2. -/
def Obligations.SetPlaybackSourceReplacesUnknown : Prop :=
  ∀ (a : Half) (b : Byte) (s : State),
    decodeRequest 0x09#8 a b = .setPlaybackSource a b ∧
    Builds (.setPlaybackSource a b) 0x09#8 0#8
      (BitVec.ofNat 8 (if 1 ≤ a.toNat ∧ a.toNat ≤ 4 then a.toNat else 2)) s

/-- R154, R102: play-folder-track puts the folder, clamped into 1 to 99 on all 16 bits, in the parameter's MSB and the
track, raised to at least 1, in its LSB. That the folder stands in the MSB (R103, decision D12) and that the track has
no ceiling (R158, decision D13) are the spec's own readings, which the model follows, notes/assumptions/25.md. -/
def Obligations.PlayFolderTrackClampsBoth : Prop :=
  ∀ (a : Half) (b : Byte) (s : State),
    decodeRequest 0x0F#8 a b = .playFolderTrack a b ∧
    Builds (.playFolderTrack a b) 0x0F#8 (BitVec.ofNat 8 (min (max a.toNat 1) 99))
      (BitVec.ofNat 8 (max b.toNat 1)) s

/-- R142 (derived by the spec from R140): the new `OUT` is a function of the operation, its operands and `FEEDBACK`
alone, and encoding twice gives the same bytes; every encode operation completes in every state (R141). -/
def Obligations.EncodingIgnoresHistory : Prop :=
  ∀ i : Instr, (encodeOp i).isSome → ∀ s s' : State, s.feedback = s'.feedback →
    ∃ t t' u, exec i s = .next t ∧ exec i s' = .next t' ∧ t.outBytes = t'.outBytes ∧
      exec i t = .next u ∧ u.outBytes = t.outBytes

/-- What an encode operation leaves in `OUT` (R104, R140) is the FRAME80 word of its row, and that word decodes to the
operation with its operands as the frame carries them. That an operation has this second word is the model's choice,
notes/assumptions/27.md; which operands an outbound word decodes to is read by inference, notes/assumptions/12.md. -/
def Obligations.EncodedFrameIsTheTablesWord : Prop :=
  ∀ (i : Instr) (s : State), (encodeOp i).isSome →
    ∃ t, exec i s = .next t ∧ encodeFrame s.feedback i = some (wireWord t.outBytes) ∧
      decodeOutbound (wireWord t.outBytes) = .ok i.carried

/-- R155, R107 (the spec's decision D14): a request whose number is none of the twelve changes nothing and pulses
`enc_refused`; a request whose number is one of the twelve is never the refused one. That the refusal is a next state
with that output is read by inference, notes/assumptions/7.md. -/
def Obligations.UnlistedRequestIsRefused : Prop :=
  (∀ (op : Byte) (a : Half) (b : Byte) (s : State), op ∉ listedOps →
    decodeRequest op a b = .encRefused op a b ∧
    exec (.encRefused op a b) s = .next { s with outs := [{ encRefused := true }] }) ∧
  (∀ (op : Byte) (a : Half) (b : Byte), op ∈ listedOps → encodeOp (decodeRequest op a b) = some op)

/-! ### The receiver, one byte at a time -/

/-- R172: in awaiting-start `7E` begins the accumulator, arms the timer and advances; any other byte is discarded
without a report. -/
def Obligations.StartByte : Prop :=
  ∀ s : State, s.rxs = .awaitingStart →
    (decodeRxByte s.rxs 0x7E#8 = .rxStart ∧
      exec .rxStart s = .next { s with
        rxs := .awaitingVersion
        acc := { start := some 0x7E#8, ver := none, len := none, cmd := none, fb := none, pm := none, pl := none,
                 cm := none, cl := none, fin := none }
        outs := [{ arm := some s.timeoutMs }] }) ∧
    (∀ b : Byte, b ≠ 0x7E#8 →
      decodeRxByte s.rxs b = .rxDiscard b ∧ exec (.rxDiscard b) s = .next { s with outs := [{}] })

/-- R173: in awaiting-version only `FF` is stored; any other byte is a version error. -/
def Obligations.VersionByte : Prop :=
  ∀ s : State, s.rxs = .awaitingVersion →
    (decodeRxByte s.rxs 0xFF#8 = .rxVersionOk ∧
      exec .rxVersionOk s =
        .next { s with rxs := .awaitingLength, acc := { s.acc with ver := some 0xFF#8 }, outs := [{}] }) ∧
    (∀ b : Byte, b ≠ 0xFF#8 →
      decodeRxByte s.rxs b = .rxVersionBad b ∧
      exec (.rxVersionBad b) s =
        .next { s with rxs := .awaitingStart, acc := emptyAcc, outs := [{ result := .err .version }] })

/-- R174: in awaiting-length only `06` is stored; any other byte is a length error. -/
def Obligations.LengthByte : Prop :=
  ∀ s : State, s.rxs = .awaitingLength →
    (decodeRxByte s.rxs 0x06#8 = .rxLengthOk ∧
      exec .rxLengthOk s =
        .next { s with rxs := .awaitingCommand, acc := { s.acc with len := some 0x06#8 }, outs := [{}] }) ∧
    (∀ b : Byte, b ≠ 0x06#8 →
      decodeRxByte s.rxs b = .rxLengthBad b ∧
      exec (.rxLengthBad b) s =
        .next { s with rxs := .awaitingStart, acc := emptyAcc, outs := [{ result := .err .length }] })

/-- R175 to R179: in states 3 to 7 every byte is stored in its slot, the state advances, and nothing is reported. -/
def Obligations.DataBytesAreStored : Prop :=
  ∀ (b : Byte) (s : State),
    (s.rxs = .awaitingCommand → decodeRxByte s.rxs b = .rxCommand b ∧
      exec (.rxCommand b) s =
        .next { s with rxs := .awaitingFeedback, acc := { s.acc with cmd := some b }, outs := [{}] }) ∧
    (s.rxs = .awaitingFeedback → decodeRxByte s.rxs b = .rxFeedback b ∧
      exec (.rxFeedback b) s =
        .next { s with rxs := .awaitingParamMsb, acc := { s.acc with fb := some b }, outs := [{}] }) ∧
    (s.rxs = .awaitingParamMsb → decodeRxByte s.rxs b = .rxParamMsb b ∧
      exec (.rxParamMsb b) s =
        .next { s with rxs := .awaitingParamLsb, acc := { s.acc with pm := some b }, outs := [{}] }) ∧
    (s.rxs = .awaitingParamLsb → decodeRxByte s.rxs b = .rxParamLsb b ∧
      exec (.rxParamLsb b) s =
        .next { s with rxs := .awaitingChecksumMsb, acc := { s.acc with pl := some b }, outs := [{}] }) ∧
    (s.rxs = .awaitingChecksumMsb → decodeRxByte s.rxs b = .rxChecksumMsb b ∧
      exec (.rxChecksumMsb b) s =
        .next { s with rxs := .awaitingChecksumLsb, acc := { s.acc with cm := some b }, outs := [{}] })

/-- R180: in awaiting-checksum-lsb the accumulated checksum MSB and the byte are compared, as one 16-bit value, with
`CHK` of the six accumulated content bytes: equal stores the byte and advances, unequal is a checksum error. -/
def Obligations.ChecksumIsJudgedAtItsLastByte : Prop :=
  ∀ (b v l c f pm pl m : Byte) (s : State), s.rxs = .awaitingChecksumLsb →
    s.acc.ver = some v → s.acc.len = some l → s.acc.cmd = some c → s.acc.fb = some f → s.acc.pm = some pm →
    s.acc.pl = some pl → s.acc.cm = some m →
    decodeRxByte s.rxs b = .rxChecksumLsb b ∧
    exec (.rxChecksumLsb b) s = .next (
      if m.toNat * 256 + b.toNat = (chk v l c f pm pl).toNat then
        { s with rxs := .awaitingEnd, acc := { s.acc with cl := some b }, outs := [{}] }
      else { s with rxs := .awaitingStart, acc := emptyAcc, outs := [{ result := .err .checksum }] })

/-- R181: in awaiting-end `EF` gives the frame of the nine accumulated bytes and the end marker as the result, any
other byte is an end-marker error, and either way the receiver restarts. R236, which is the spec's decision D19
(notes/assumptions/25.md): `peer_err` stands beside the frame exactly for command `40`, and `peer_code` is the
parameter. -/
def Obligations.EndByteDeliversTheFrame : Prop :=
  ∀ (d : Slots Byte) (s : State), s.rxs = .awaitingEnd → s.acc = firstSlots 9 d →
    (decodeRxByte s.rxs 0xEF#8 = .rxEndOk ∧
      exec .rxEndOk s = .next { s with
        rxs := .awaitingStart
        acc := emptyAcc
        outs := [{
          result := .frame { start := d.start, version := d.ver, length := d.len, command := d.cmd, feedback := d.fb,
                             param := d.pm ++ d.pl, checksum := d.cm ++ d.cl, endMarker := 0xEF#8 }
          peer := some { peerErr := decide (d.cmd = 0x40#8), peerCode := d.pm ++ d.pl } }] }) ∧
    (∀ b : Byte, b ≠ 0xEF#8 →
      decodeRxByte s.rxs b = .rxEndBad b ∧
      exec (.rxEndBad b) s =
        .next { s with rxs := .awaitingStart, acc := emptyAcc, outs := [{ result := .err .endMarker }] })

/-- R182: the timeout poll reports a timeout exactly in states 1 to 9 with the timer expired; otherwise nothing
changes. -/
def Obligations.IdlePoll : Prop :=
  ∀ (expired : Bool) (s : State),
    exec (.rxIdle expired) s = .next (
      if s.rxs ≠ .awaitingStart ∧ expired = true then
        { s with rxs := .awaitingStart, acc := emptyAcc, outs := [{ result := .err .timeout }] }
      else { s with outs := [{}] })

/-- R113: an RXEVT instruction belongs to the state that its key names; in any other it is refused by name (the
model's choice, notes/assumptions/6.md). -/
def Obligations.RxInstructionBelongsToItsState : Prop :=
  ∀ (i : Instr) (r : RxState) (b : Byte) (s : State),
    encode i = some (.rxEvent (rxKey r b)) → s.rxs ≠ r → exec i s = .refused .selectorMismatch

/-- R29: a read of an `EMPTY` slot is the model's fault (notes/assumptions/5.md): in state 8 with any of the slots 1
to 7 `EMPTY`, and in state 9 at the end marker with any of the slots 0 to 8 `EMPTY`. -/
def Obligations.EmptySlotReadFaults : Prop :=
  (∀ (b : Byte) (s : State), s.rxs = .awaitingChecksumLsb →
    (∃ j : Fin 10, 1 ≤ j.val ∧ j.val ≤ 7 ∧ slotAt s.acc j = none) →
    ∃ j : Fin 10, slotAt s.acc j = none ∧ exec (.rxChecksumLsb b) s = .fault (.emptySlotRead j)) ∧
  (∀ s : State, s.rxs = .awaitingEnd →
    (∃ j : Fin 10, j.val ≤ 8 ∧ slotAt s.acc j = none) →
    ∃ j : Fin 10, slotAt s.acc j = none ∧ exec .rxEndOk s = .fault (.emptySlotRead j))

/-- R31 (derived by the spec from R172 to R182): how a byte event moves `RXS` from a state that meets the fill
invariant: to 0, or one further; one further exactly when the state accepts the byte, in state 8 exactly when it makes
the checksum match; and at most one report. -/
def Obligations.ByteEventMovesState : Prop :=
  ∀ (b : Byte) (s : State), AccInv s →
    ∃ t o, exec (decodeRxByte s.rxs b) s = .next t ∧ t.outs = [o] ∧
      ((t.rxs.code = s.rxs.code + 1#4 ∧ s.rxs ≠ .awaitingEnd ∧ o.result = .none ∧
          (s.rxs = .awaitingStart → b = 0x7E#8) ∧ (s.rxs = .awaitingVersion → b = 0xFF#8) ∧
          (s.rxs = .awaitingLength → b = 0x06#8) ∧ (s.rxs = .awaitingChecksumLsb → ChecksumFits s b)) ∨
        (t.rxs = .awaitingStart ∧ s.rxs = .awaitingStart ∧ b ≠ 0x7E#8 ∧ o.result = .none ∧ t.acc = s.acc) ∨
        (t.rxs = .awaitingStart ∧ t.acc = emptyAcc ∧
          ((s.rxs = .awaitingVersion ∧ b ≠ 0xFF#8 ∧ o.result = .err .version) ∨
           (s.rxs = .awaitingLength ∧ b ≠ 0x06#8 ∧ o.result = .err .length) ∨
           (s.rxs = .awaitingChecksumLsb ∧ ¬ ChecksumFits s b ∧ o.result = .err .checksum) ∨
           (s.rxs = .awaitingEnd ∧ b ≠ 0xEF#8 ∧ o.result = .err .endMarker) ∨
           (s.rxs = .awaitingEnd ∧ b = 0xEF#8 ∧ ∃ fr, o.result = .frame fr))))

/-- R240: on every report of a byte event or a poll, `RXS` is 0, `ACC` is empty, the report is the only output (no arm
request, nothing beside the result but what R236, the spec's decision D19, notes/assumptions/25.md, puts beside a
`FRAME`), and nothing else changes; R243: in state 0 no byte and no poll reports anything. -/
def Obligations.ReportRestartsAndChangesNothingElse : Prop :=
  ∀ (e : Event) (s t : State) (o : EventOut), rcvEvent e = true →
    exec (decodeEvent s.rxs e) s = .next t → o ∈ t.outs → o.result ≠ .none →
    s.rxs ≠ .awaitingStart ∧ t = { s with rxs := .awaitingStart, acc := emptyAcc, outs := [o] } ∧
    ((∃ k, o = { result := .err k }) ∨
      ∃ fr, o = { result := .frame fr
                  peer := some { peerErr := decide (fr.command = 0x40#8), peerCode := fr.param } })

/-! ### Whole frames -/

/-- R183, for an inbound frame given whole: in awaiting-start, ten bytes with a matching checksum give `NONE` nine
times, the first of them arming the timer, and then `FRAME` with exactly those bytes; the receiver is in state 0 with
an empty accumulator. That ten bytes are one step is the model's choice, notes/assumptions/11.md. -/
def Obligations.GoodFrameIsAccepted : Prop :=
  ∀ (cmd fb : Byte) (param ck : Half) (s : State), s.rxs = .awaitingStart →
    ck = chk 0xFF#8 0x06#8 cmd fb (hi param) (lo param) →
    exec (.goodFrame cmd fb param ck) s = .next { s with
      rxs := .awaitingStart
      acc := emptyAcc
      outs := [{ arm := some s.timeoutMs }, {}, {}, {}, {}, {}, {}, {}, {},
        { result := .frame { start := 0x7E#8, version := 0xFF#8, length := 0x06#8, command := cmd, feedback := fb,
                             param := param, checksum := ck, endMarker := 0xEF#8 }
          peer := some { peerErr := decide (cmd = 0x40#8), peerCode := param } }] }

/-- R236, for a peer-error frame given whole: in awaiting-start it is taken as any good frame, and the `FRAME` result
has `peer_err` 1 and the parameter as `peer_code`; `OUT` and the transmit stream stay as they were. That ten bytes are
one step is the model's choice, notes/assumptions/11.md. -/
def Obligations.PeerErrorFrameIsClassified : Prop :=
  ∀ (fb : Byte) (param ck : Half) (s : State), s.rxs = .awaitingStart →
    ck = chk 0xFF#8 0x06#8 0x40#8 fb (hi param) (lo param) →
    exec (.peerErrorFrame fb param ck) s = .next { s with
      rxs := .awaitingStart
      acc := emptyAcc
      outs := [{ arm := some s.timeoutMs }, {}, {}, {}, {}, {}, {}, {}, {},
        { result := .frame { start := 0x7E#8, version := 0xFF#8, length := 0x06#8, command := 0x40#8, feedback := fb,
                             param := param, checksum := ck, endMarker := 0xEF#8 }
          peer := some { peerErr := true, peerCode := param } }] }

/-- R180, R109: an inbound frame whose checksum does not match gives one checksum error, at its ninth byte, and its
end marker is discarded in awaiting-start. One step: notes/assumptions/11.md. -/
def Obligations.BadChecksumFrameIsReported : Prop :=
  ∀ (i : Instr) (cmd fb : Byte) (param ck : Half) (s : State), s.rxs = .awaitingStart →
    (i = .goodFrame cmd fb param ck ∨ (i = .peerErrorFrame fb param ck ∧ cmd = 0x40#8)) →
    ck ≠ chk 0xFF#8 0x06#8 cmd fb (hi param) (lo param) →
    exec i s = .next { s with
      rxs := .awaitingStart
      acc := emptyAcc
      outs := [{ arm := some s.timeoutMs }, {}, {}, {}, {}, {}, {}, {}, { result := .err .checksum }, {}] }

/-- R72: ten bytes that arrive in any state that meets the fill invariant are taken, one event each. One step:
notes/assumptions/11.md. -/
def Obligations.InboundFrameCompletes : Prop :=
  ∀ (cmd fb : Byte) (param ck : Half) (s : State), AccInv s →
    (∃ t, exec (.goodFrame cmd fb param ck) s = .next t ∧ t.outs.length = 10) ∧
    (∃ t, exec (.peerErrorFrame fb param ck) s = .next t ∧ t.outs.length = 10)

/-- R183 with idle polls: from state 0, ten good bytes with any number of polls with the timer not expired before each
of them are taken step by step, and the last step gives `FRAME` with exactly those bytes. -/
def Obligations.GoodFrameSurvivesIdlePolls : Prop :=
  ∀ (d : Slots Byte) (gaps : Slots Nat) (rest : List Input) (s : State), s.rxs = .awaitingStart →
    d.start = 0x7E#8 → d.ver = 0xFF#8 → d.len = 0x06#8 → half d.cm d.cl = expectedChecksum d → d.fin = 0xEF#8 →
    s.inputs = ((wireOrder gaps).zip (wireOrder d)).flatMap
      (fun p => List.replicate p.1 (.event (.rxIdle false)) ++ [.event (.rxByte p.2)]) ++ rest →
    ∃ n t, runSteps n s = .next t ∧ t.inputs = rest ∧ t.rxs = .awaitingStart ∧ t.acc = emptyAcc ∧
      t.outs = [{ result := .frame (recordOf d), peer := some (peerReport (recordOf d)) }] ∧
      n = 10 + (wireOrder gaps).sum

/-- R183, the converse: whatever a step takes, from a state that meets the invariant, every `FRAME` result it gives is
a good frame, and carries the classification of R236. -/
def Obligations.EveryFrameResultIsGood : Prop :=
  ∀ (s t : State), Inv s → step s = .next t →
    ∀ o ∈ t.outs, ∀ fr, o.result = .frame fr →
      FrameGood fr ∧ o.peer = some { peerErr := decide (fr.command = 0x40#8), peerCode := fr.param }

/-- R184 (derived by the spec from R183): ten bytes are accepted from state 0 exactly when they are the frame of some
command, feedback byte and parameter, and different choices are different frames. -/
def Obligations.AcceptedFramesAreTheChoices : Prop :=
  (∀ (d : Slots Byte) (s : State), s.rxs = .awaitingStart →
    ((∃ t os o fr, rxBytes (wireOrder d) s = .ok (t, os ++ [o]) ∧ o.result = .frame fr) ↔
      ∃ (cmd fb : Byte) (param : Half), d = frameFor cmd fb param)) ∧
  (∀ (cmd fb cmd' fb' : Byte) (param param' : Half),
    frameFor cmd fb param = frameFor cmd' fb' param' → cmd = cmd' ∧ fb = fb' ∧ param = param')

/-- R157 (derived by the spec from R140 and R23), for the encode operations: what any of them leaves in `OUT`, fed to
a receiver in awaiting-start, gives `NONE` nine times and then `FRAME` with the same ten bytes and the operation's
number as its command. -/
def Obligations.EncodedFrameIsReceived : Prop :=
  ∀ (i : Instr) (op : Byte) (s t : State), encodeOp i = some op → s.rxs = .awaitingStart → exec i s = .next t →
    ∃ u os o, rxBytes (wireOrder t.outBytes) t = .ok (u, os ++ [o]) ∧ os.length = 9 ∧
      (∀ x ∈ os, x.result = .none) ∧ o.result = .frame (recordOf t.outBytes) ∧ (recordOf t.outBytes).command = op ∧
      u.rxs = .awaitingStart ∧ u.acc = emptyAcc ∧ u.out = t.out

/-- R68, R280 (a): in awaiting-start, any number of bytes other than `7E` are discarded, and leave the receiver as it
was. -/
def Obligations.NoiseWithoutStartMarkerIsDiscarded : Prop :=
  ∀ (noise : List Byte) (rest : List Input) (s : State), s.rxs = .awaitingStart → (∀ b ∈ noise, b ≠ 0x7E#8) →
    s.inputs = noise.map (fun b => .event (.rxByte b)) ++ rest →
    ∃ t, runSteps noise.length s = .next t ∧ t.inputs = rest ∧ t.rxs = .awaitingStart ∧ t.acc = s.acc ∧
      t.out = s.out ∧ t.tx = s.tx ∧ (∀ o ∈ t.outs, noise ≠ [] → o = {})

/-- R280 (c), R185: a stray `7E` before a good frame costs the frame: the frame's own start marker is a version error
and the rest is discarded, where the rest holds no further `7E`. -/
def Obligations.StrayStartMarkerLosesTheFrame : Prop :=
  ∀ (cmd fb : Byte) (param : Half) (s : State), s.rxs = .awaitingStart →
    (∀ b ∈ (wireOrder (frameFor cmd fb param)).drop 1, b ≠ 0x7E#8) →
    rxBytes (0x7E#8 :: wireOrder (frameFor cmd fb param)) s =
      .ok ({ s with rxs := .awaitingStart, acc := emptyAcc },
        [{ arm := some s.timeoutMs }, { result := .err .version }, {}, {}, {}, {}, {}, {}, {}, {}, {}])

/-! ### The surface -/

/-- R210, R211, R40: the accessors answer the ten bytes of `OUT`, and their record, and change nothing; the map
between bytes and records is a bijection. -/
def Obligations.AccessorsReadOut : Prop :=
  (∀ s : State,
    exec .getFrameBytes s = .next { s with
      outs := [{ frameBytes := some ⟨0x7E#8, 0xFF#8, 0x06#8, s.out.cmd, s.out.fb, s.out.pm, s.out.pl, s.out.cm,
        s.out.cl, 0xEF#8⟩ }] } ∧
    exec .getFrameRecord s = .next { s with
      outs := [{ frameRecord := some ⟨0x7E#8, 0xFF#8, 0x06#8, s.out.cmd, s.out.fb, s.out.pm ++ s.out.pl,
        s.out.cm ++ s.out.cl, 0xEF#8⟩ }] }) ∧
  (∀ d : Slots Byte, bytesOf (recordOf d) = d) ∧ (∀ fr : Frame, recordOf (bytesOf fr) = fr)

/-- R212, R213 (the spec's decisions D16, D17): a load puts its ten bytes into the ten slots and an abort empties
them; both leave state 0, report nothing, arm nothing and change nothing else, in every state. -/
def Obligations.LoadAndAbort : Prop :=
  ∀ (d : Slots Byte) (s : State),
    exec (.rxLoad d) s = .next { s with
      rxs := .awaitingStart
      acc := { start := some d.start, ver := some d.ver, len := some d.len, cmd := some d.cmd, fb := some d.fb,
               pm := some d.pm, pl := some d.pl, cm := some d.cm, cl := some d.cl, fin := some d.fin }
      outs := [{}] } ∧
    exec .rxAbort s = .next { s with
      rxs := .awaitingStart
      acc := { start := none, ver := none, len := none, cmd := none, fb := none, pm := none, pl := none, cm := none,
               cl := none, fin := none }
      outs := [{}] }

/-- R215, R75: `Send` appends the ten bytes of `OUT`, byte 0 first, to the transmit stream and changes nothing else.
Where the clocked binding still holds bytes of an earlier `Send` these go first (the model's choice,
notes/assumptions/18.md); at the event level there are none (R41). The stream in the state is the model's own,
notes/assumptions/1.md. -/
def Obligations.SendAppendsTheFrame : Prop :=
  ∀ s : State,
    exec .txSend s = .next { s with
      tx := s.tx ++ s.handover ++
        [0x7E#8, 0xFF#8, 0x06#8, s.out.cmd, s.out.fb, s.out.pm, s.out.pl, s.out.cm, s.out.cl, 0xEF#8]
      handover := []
      outs := [{}] }

/-- R214: `receiveFrame()` takes the polls that the environment presents, one event each (the bytes of a line written
out), and returns at the first result that is not `NONE`, leaving later inputs alone; while there has been none and no
poll is left it is still waiting, behind what the environment presents next (the model's choice,
notes/assumptions/10.md). -/
def Obligations.ReceiveCallEndsAtFirstResult : Prop :=
  ∀ s : State, AccInv s →
    ∃ t polls left, exec .receiveFrame s = .next t ∧ asPolls s.inputs = polls ++ left ∧
      (∀ x ∈ polls, isPoll x = true) ∧
      t.outs.length = polls.length ∧ t.out = s.out ∧ t.tx = s.tx ∧
      ((t.inputs = left ∧ ∃ os o, t.outs = os ++ [o] ∧ (∀ x ∈ os, x.result = .none) ∧ o.result ≠ .none ∧
          t.rxs = .awaitingStart ∧ t.acc = emptyAcc) ∨
        (t.inputs = stillWaiting left ∧ (∀ x ∈ t.outs, x.result = .none) ∧
          ∀ x xs, left = x :: xs → isPoll x = false))

/-- R214, R183: where the ten bytes of a good frame are next on the receive stream, the call takes those ten, returns
that frame, and leaves what follows (a line that follows at once written out as its bytes). One step:
notes/assumptions/10.md. -/
def Obligations.ReceiveCallReturnsTheFrame : Prop :=
  ∀ (d : Slots Byte) (rest : List Input) (s : State), s.rxs = .awaitingStart →
    d.start = 0x7E#8 → d.ver = 0xFF#8 → d.len = 0x06#8 → half d.cm d.cl = expectedChecksum d → d.fin = 0xEF#8 →
    s.inputs = (wireOrder d).map (fun b => .event (.rxByte b)) ++ rest →
    exec .receiveFrame s = .next { s with
      rxs := .awaitingStart
      acc := emptyAcc
      inputs := asPolls rest
      outs := [{ arm := some s.timeoutMs }, {}, {}, {}, {}, {}, {}, {}, {},
        { result := .frame (recordOf d), peer := some (peerReport (recordOf d)) }] }

/-- R214: the call is its expansion into events: stepping through the polls it took gives the same receiver, the same
`OUT`, and leaves the same inputs, but for the call itself where it is still waiting. One step:
notes/assumptions/10.md. -/
def Obligations.ReceiveCallIsItsEvents : Prop :=
  ∀ s t : State, exec .receiveFrame s = .next t →
    ∃ u, runSteps t.outs.length { s with inputs := asPolls s.inputs } = .next u ∧ u.rxs = t.rxs ∧
      u.acc = t.acc ∧ u.out = t.out ∧ u.tx = t.tx ∧
      (t.inputs = u.inputs ∨ t.inputs = stillWaiting u.inputs) ∧
      ∀ o, t.outs.getLast? = some o → u.outs = [o]

/-! ### Reset -/

/-- R270, R271, R43: `Reset` at any time gives the reset values and leaves the environment's streams and straps alone;
a second one changes nothing more. The values of bytes 3 to 8 are the spec's decision D15. -/
def Obligations.ResetGivesTheResetValues : Prop :=
  ∀ s : State, ∃ t, exec .reset s = .next t ∧
    wireOrder t.outBytes =
      [0x7E#8, 0xFF#8, 0x06#8, 0x00#8, 0x00#8, 0x00#8, 0x00#8, 0xFE#8, 0xFB#8, 0xEF#8] ∧
    t = { s with out := t.out, rxs := .awaitingStart, acc := emptyAcc, handover := [], outs := [{}] } ∧
    exec .reset t = .next t

/-- R42: the state after reset: awaiting-start, every slot `EMPTY`, and the reset frame, whose checksum is `CHK(FF,
06, 0, 0, 0, 0)` (the spec's decision D15). The outputs are none, notes/assumptions/8.md. -/
def Obligations.StateAfterReset : Prop :=
  State.reset.rxs = .awaitingStart ∧ (∀ i : Fin 10, slotAt State.reset.acc i = none) ∧
  wireOrder State.reset.outBytes =
    [0x7E#8, 0xFF#8, 0x06#8, 0x00#8, 0x00#8, 0x00#8, 0x00#8, 0xFE#8, 0xFB#8, 0xEF#8] ∧
  chk 0xFF#8 0x06#8 0#8 0#8 0#8 0#8 = 0xFEFB#16 ∧ State.reset.outs = []

/-- R24, R27, after reset: the reset state meets the invariant that every step keeps. -/
def Obligations.ResetMeetsTheInvariant : Prop := Inv State.reset

/-! ### The step -/

/-- A step runs the decoded instruction: the next event, decoded in the current receiver state, in the state that no
longer lists it; the same for ten bytes that are an inbound frame's row; and with no input only the outputs are
cleared. What the environment presents, and the counter of steps, are the model's, notes/assumptions/1.md and 13.md.
-/
def Obligations.StepRunsTheDecodedInstruction : Prop :=
  ∀ s : State,
    (∀ e rest, s.inputs = .event e :: rest →
      step s = exec (decodeEvent s.rxs e) { s with inputs := rest, tick := s.tick + 1 }) ∧
    (∀ F i rest, s.inputs = .line F :: rest → decodeInbound F = .ok i →
      step s = exec i { s with inputs := rest, tick := s.tick + 1 }) ∧
    (∀ p rest, s.inputs = .cycle p :: rest → step s = cycle p { s with inputs := rest, tick := s.tick + 1 }) ∧
    (s.inputs = [] → step s = .next { s with outs := [], tick := s.tick + 1 })

/-- R24, R27: every step, from every state that meets the invariant of `OUT` and the fill invariant of `ACC`, leaves a
state that meets them. -/
def Obligations.StepKeepsTheInvariant : Prop :=
  ∀ s t : State, Inv s → step s = .next t → Inv t

/-- R72: every input in every state has a defined outcome: from a state that meets the invariant a step always answers
a next state, so no run from reset ever stops. The one refusal of the spec (R155, R13, R72: an unlisted request) is a
next state too: that is read by inference, notes/assumptions/7.md. That a step without input is a next state is the
model's choice, notes/assumptions/13.md. -/
def Obligations.StepAlwaysAnswers : Prop :=
  ∀ s : State, Inv s → ∀ n : Nat, ∃ t, runSteps n s = .next t ∧ Inv t

/-- R34, R35, R217: no step changes `FEEDBACK` or `TIMEOUT_MS`; R63: the transmit stream is only ever appended to. -/
def Obligations.StrapsAndSentBytesStay : Prop :=
  ∀ s t : State, step s = .next t →
    t.feedback = s.feedback ∧ t.timeoutMs = s.timeoutMs ∧ ∃ sent, t.tx = s.tx ++ sent

/-- R25, R28, R76: an event of one agent leaves the other agent's registers alone. -/
def Obligations.AgentsKeepToTheirRegisters : Prop :=
  ∀ (e : Event) (r : RxState) (s t : State), exec (decodeEvent r e) s = .next t →
    (encoderEvent e = true → t.acc = s.acc ∧ t.rxs = s.rxs ∧ t.inputs = s.inputs) ∧
    (rcvEvent e = true → t.out = s.out ∧ t.tx = s.tx ∧ t.handover = s.handover ∧ t.inputs = s.inputs)

/-- R74: an encoder event and a receiver event commute: they complete together in the one order exactly when they do
in the other, and then leave the same state but for the order of the outputs, and each has the same outputs. -/
def Obligations.AgentsCommute : Prop :=
  ∀ (e f : Event) (s : State), encoderEvent e = true → rcvEvent f = true →
    ((∃ s1 s2, exec (decodeEvent s.rxs e) s = .next s1 ∧ exec (decodeEvent s1.rxs f) s1 = .next s2) ↔
      ∃ t1 t2, exec (decodeEvent s.rxs f) s = .next t1 ∧ exec (decodeEvent t1.rxs e) t1 = .next t2) ∧
    ∀ s1 s2 t1 t2, exec (decodeEvent s.rxs e) s = .next s1 → exec (decodeEvent s1.rxs f) s1 = .next s2 →
      exec (decodeEvent s.rxs f) s = .next t1 → exec (decodeEvent t1.rxs e) t1 = .next t2 →
      t1.outs = s2.outs ∧ t2.outs = s1.outs ∧ { t2 with outs := [] } = { s2 with outs := [] }

/-! ### The clocked binding -/

/-- R45, R239: which receiver event a cycle makes: abort before load before a waiting byte before the timer; and reset
wins over all. That a byte which a hand-over offers in a cycle with `rst` 1 is not given is the model's choice,
notes/assumptions/28.md. -/
def Obligations.CycleArbitration : Prop :=
  ∀ (p : InPorts) (s : State),
    (p.rst = true → cycle p s = exec .reset s ∧ rxTake p = false) ∧
    (p.rxAbort = true → receiverEvent p = .rxAbort ∧ rxTake p = false) ∧
    (p.rxAbort = false → p.rxLoad = true →
      receiverEvent p = .rxLoad (wireBytes p.rxLoadData) ∧ rxTake p = false) ∧
    (p.rxAbort = false → p.rxLoad = false → p.rxValid = true →
      receiverEvent p = .rxByte p.rxData ∧ (p.rst = false → rxTake p = true)) ∧
    (p.rxAbort = false → p.rxLoad = false → p.rxValid = false →
      receiverEvent p = .rxIdle p.tmrExpired ∧ rxTake p = false)

/-- R45: a cycle without reset whose encoder is free is its events: the receiver's, then the encode request's if there
is one; then, if `tx_send` is 1, the frame now in `OUT` is held for the hand-over, and no byte of it goes out in this
cycle (the model's choice, notes/assumptions/17.md). The receiver's event before the encoder's is the model's choice
of the two orders that R45 allows, notes/assumptions/19.md. -/
def Obligations.CycleIsItsEvents : Prop :=
  ∀ (p : InPorts) (s s1 s2 : State), p.rst = false → s.handover = [] →
    exec (decodeEvent s.rxs (receiverEvent p)) s = .next s1 →
    (if p.encValid then exec (decodeRequest p.encOp p.encA p.encB) s1 else .next { s1 with outs := [] }) = .next s2 →
    cycle p s = .next { s2 with
      handover := if p.txSend then wireOrder s2.outBytes else s2.handover
      outs := s1.outs ++ s2.outs }

/-- R44, R45, R285: a cycle without reset while bytes of a `Send` are left is the receiver's event and the hand-over:
exactly one byte goes out when `tx_ready` is 1, none otherwise; the encoder takes no event, so `OUT` stays and no
request is refused; what has been sent and what is left together stay the same bytes. When bytes are offered is the
model's choice, notes/assumptions/17.md. -/
def Obligations.BusyCycleHandsOverOneByte : Prop :=
  ∀ (p : InPorts) (b : Byte) (left : List Byte) (s s1 : State), p.rst = false → s.handover = b :: left →
    exec (decodeEvent s.rxs (receiverEvent p)) s = .next s1 →
    ∃ t, cycle p s = .next t ∧
      t = { s1 with
        handover := if p.txReady then left else b :: left
        tx := if p.txReady then s.tx ++ [b] else s.tx } ∧
      t.out = s.out ∧ t.tx ++ t.handover = s.tx ++ s.handover ∧ ∀ o ∈ t.outs, o.encRefused = false

/-- R215, R285: the hand-over is the event-level `Send`, spread over cycles: whatever the other ports do, as long as
`rst` stays 0, after cycles of which `k` had `tx_ready` the first `k` of the held bytes have gone out in order, the
others are still held, and `OUT` is as it was. When bytes are offered: notes/assumptions/17.md. -/
def Obligations.HandoverDeliversTheFrame : Prop :=
  ∀ (ps : List InPorts) (rest : List Input) (s : State), Inv s → (∀ p ∈ ps, p.rst = false) →
    s.inputs = ps.map .cycle ++ rest →
    (ps.dropLast.filter (fun p => p.txReady)).length < s.handover.length →
    ∃ t, runSteps ps.length s = .next t ∧ t.inputs = rest ∧ t.out = s.out ∧
      t.tx = s.tx ++ s.handover.take (ps.filter (fun p => p.txReady)).length ∧
      t.handover = s.handover.drop (ps.filter (fun p => p.txReady)).length

/-- R44, R46, R231: the ports show the state: `OUT`, `RXS`, the filled slots, the duration, the byte to be handed over;
and the last step's outputs: the first result not `NONE` under its code, with frame, `peer_err` and `peer_code` of a
`FRAME`; an arm request; a refusal; else 0. Of open port values nothing is said, notes/assumptions/16.md. The model's
choices: `tx_valid` and `tx_busy` are 1 exactly while bytes are held, 17.md; outputs stand in the state for one step,
8.md; a step without input clears them, 13.md. -/
def Obligations.PortsShowStateAndPulses : Prop :=
  ∀ (p : InPorts) (s : State),
    (s.outPorts p).outFrame = wireWord s.outBytes ∧ (s.outPorts p).rxState = s.rxs.code ∧
    (s.outPorts p).tmrDuration = s.timeoutMs ∧ (s.outPorts p).rxTake = rxTake p ∧
    (s.outPorts p).encReady = !(s.outPorts p).txBusy ∧ ((s.outPorts p).txBusy = true ↔ s.handover ≠ []) ∧
    ((s.outPorts p).txValid = true ↔ s.handover ≠ []) ∧
    (∀ b left, s.handover = b :: left → (s.outPorts p).txData = b) ∧
    (∀ (i : Fin 10) (b : Byte), slotAt s.acc i = some b → wireByte (s.outPorts p).rxAcc i = b) ∧
    ((s.outPorts p).tmrArm = true ↔ ∃ o ∈ s.outs, o.arm ≠ none) ∧
    ((s.outPorts p).encRefused = true ↔ ∃ o ∈ s.outs, o.encRefused = true) ∧
    ((∀ o ∈ s.outs, o.result = .none) →
      (s.outPorts p).rxStatus = 0#3 ∧ (s.outPorts p).rxFrame = 0#80 ∧ (s.outPorts p).rxPeerErr = false ∧
      (s.outPorts p).rxPeerCode = 0#16) ∧
    (∀ before o after, s.outs = before ++ o :: after → (∀ x ∈ before, x.result = .none) →
      (∀ fr, o.result = .frame fr →
        (s.outPorts p).rxStatus = 1#3 ∧ recordOf (wireBytes (s.outPorts p).rxFrame) = fr ∧
        (s.outPorts p).rxPeerErr = decide (fr.command = 0x40#8) ∧ (s.outPorts p).rxPeerCode = fr.param) ∧
      (o.result = .err .version → (s.outPorts p).rxStatus = 2#3) ∧
      (o.result = .err .length → (s.outPorts p).rxStatus = 3#3) ∧
      (o.result = .err .checksum → (s.outPorts p).rxStatus = 4#3) ∧
      (o.result = .err .endMarker → (s.outPorts p).rxStatus = 5#3) ∧
      (o.result = .err .timeout → (s.outPorts p).rxStatus = 6#3)) ∧
    (∀ t, s.inputs = [] → step s = .next t →
      (t.outPorts p).rxStatus = 0#3 ∧ (t.outPorts p).tmrArm = false ∧ (t.outPorts p).encRefused = false ∧
      (t.outPorts p).rxFrame = 0#80 ∧ (t.outPorts p).rxPeerErr = false ∧ (t.outPorts p).rxPeerCode = 0#16)

/-- R45, R46, R231: the ports after a cycle without reset show what its events gave, whether or not a hand-over lasts:
the receiver's result, `peer_err` and `peer_code` under its code, and its arm request; and `enc_refused` exactly where
the encoder was free and took a request whose number is none of the twelve. That the outputs stand in the state for
one step is the model's choice, notes/assumptions/8.md. -/
def Obligations.CyclePortsShowItsEvents : Prop :=
  ∀ (p q : InPorts) (o : EventOut) (s s1 t : State), p.rst = false →
    exec (decodeEvent s.rxs (receiverEvent p)) s = .next s1 → s1.outs = [o] → cycle p s = .next t →
    (t.outPorts q).rxState = s1.rxs.code ∧
    ((t.outPorts q).tmrArm = true ↔ o.arm ≠ none) ∧
    ((t.outPorts q).encRefused = true ↔ s.handover = [] ∧ p.encValid = true ∧ p.encOp ∉ listedOps) ∧
    (o.result = .none → (t.outPorts q).rxStatus = 0#3 ∧ (t.outPorts q).rxFrame = 0#80 ∧
      (t.outPorts q).rxPeerErr = false ∧ (t.outPorts q).rxPeerCode = 0#16) ∧
    (∀ fr, o.result = .frame fr →
      (t.outPorts q).rxStatus = 1#3 ∧ recordOf (wireBytes (t.outPorts q).rxFrame) = fr ∧
      (t.outPorts q).rxPeerErr = decide (fr.command = 0x40#8) ∧ (t.outPorts q).rxPeerCode = fr.param) ∧
    (o.result = .err .version → (t.outPorts q).rxStatus = 2#3) ∧
    (o.result = .err .length → (t.outPorts q).rxStatus = 3#3) ∧
    (o.result = .err .checksum → (t.outPorts q).rxStatus = 4#3) ∧
    (o.result = .err .endMarker → (t.outPorts q).rxStatus = 5#3) ∧
    (o.result = .err .timeout → (t.outPorts q).rxStatus = 6#3)

/-! ### Encodings -/

/-- R100, R113, R90: decoding the word of a well-formed instruction gives the instruction back, with every operand. -/
def Obligations.DecodeOfEncode : Prop :=
  ∀ (i : Instr) (w : Encoded), i.WellFormed → encode i = some w → decode w = .ok i

/-- R100, R113, R90: a request, an RXEVT key or an inbound frame that decodes is the word of the instruction that it
decodes to. -/
def Obligations.EncodeOfDecode : Prop :=
  ∀ (w : Encoded) (i : Instr), (∀ F, w ≠ .outbound F) → decode w = .ok i → encode i = some w

/-- R113, R32: the RXEVT table, read row by row with the first match winning, gives on every key `{RXS, b}` the byte
event's instruction of that state; and it has no row for a code that is no state. -/
def Obligations.KeyTableIsTheByteEvent : Prop :=
  (∀ (r : RxState) (b : Byte), decodeRxKey (rxKey r b) = .ok (decodeRxByte r b)) ∧
  (∀ k : RxKey, 10 ≤ (keyState k).toNat → decodeRxKey k = .error .noSuchState)

/-- Words written out from the table and the rules' examples decode to their instructions. Which operands a FRAME80
word has, how its bits are numbered, and that outbound rows come before inbound ones are the model's choice, read by
inference, notes/assumptions/12.md. -/
def Obligations.WordsDecode : Prop :=
  decodeTableWord 80 0x7EFF0603010005FEF2EF = some (.playTrack 5#16 0#8) ∧
  decodeTableWord 80 0x7EFF060F000203FEE7EF = some (.playFolderTrack 2#16 3#8) ∧
  decodeTableWord 80 0x7EFF0640000006FEB5EF = some (.peerErrorFrame 0x00#8 0x0006#16 0xFEB5#16) ∧
  decodeTableWord 80 0x7EFF06415A1234FE1AEF = some (.goodFrame 0x41#8 0x5A#8 0x1234#16 0xFE1A#16) ∧
  decodeTableWord 16 0x07E = some .rxStart ∧ decodeTableWord 16 0x17E = some (.rxVersionBad 0x7E#8) ∧
  decodeTableWord 16 0x8F2 = some (.rxChecksumLsb 0xF2#8) ∧ decodeTableWord 16 0xA00 = none
end

