-- ==== Sys2Proof/Laws/Bits.lean ====
section
/-! SUPPORT. The byte and frame views: split and join are inverse, in both directions; the clamps as numbers. -/

namespace Sys2Proof.Machine

/-- Joining two bit strings, as a number. -/
theorem append_toNat {m n : Nat} (x : BitVec m) (y : BitVec n) : (x ++ y).toNat = x.toNat * 2 ^ n + y.toNat := by
  rw [BitVec.toNat_append, Nat.shiftLeft_eq, Nat.mul_comm, ← Nat.two_pow_add_eq_or_of_lt y.isLt]

/-- A 16-bit value of two bytes is 256 times the first plus the second (R65). -/
theorem half_toNat (m l : Byte) : (half m l).toNat = m.toNat * 256 + l.toNat := append_toNat m l

theorem hi_toNat (p : Half) : (hi p).toNat = p.toNat / 256 := by
  have := p.isLt
  simp only [hi, BitVec.extractLsb'_toNat, Nat.shiftRight_eq_div_pow]
  omega

theorem lo_toNat (p : Half) : (lo p).toNat = p.toNat % 256 := by
  simp [lo, BitVec.extractLsb'_toNat]

@[simp] theorem hi_half (m l : Byte) : hi (half m l) = m := by
  have := l.isLt
  apply BitVec.eq_of_toNat_eq
  rw [hi_toNat, half_toNat]
  omega

@[simp] theorem lo_half (m l : Byte) : lo (half m l) = l := by
  have := l.isLt
  apply BitVec.eq_of_toNat_eq
  rw [lo_toNat, half_toNat]
  omega

@[simp] theorem half_hi_lo (p : Half) : half (hi p) (lo p) = p := by
  apply BitVec.eq_of_toNat_eq
  rw [half_toNat, hi_toNat, lo_toNat]
  omega

/-- Two 16-bit values are equal exactly when both bytes are. -/
theorem half_inj {m l m' l' : Byte} : half m l = half m' l' ↔ m = m' ∧ l = l' := by
  constructor
  · intro h
    exact ⟨by simpa using congrArg hi h, by simpa using congrArg lo h⟩
  · rintro ⟨rfl, rfl⟩; rfl

theorem umin_toNat {n : Nat} (x y : BitVec n) : (umin x y).toNat = min x.toNat y.toNat := by
  unfold umin; split <;> rename_i h <;> simp only [BitVec.le_def] at h <;> omega

theorem umax_toNat {n : Nat} (x y : BitVec n) : (umax x y).toNat = max x.toNat y.toNat := by
  unfold umax; split <;> rename_i h <;> simp only [BitVec.le_def] at h <;> omega

theorem clamp_toNat {n : Nat} (x low high : BitVec n) :
    (clamp x low high).toNat = min (max x.toNat low.toNat) high.toNat := by
  simp [clamp, umin_toNat, umax_toNat]

/-- `CHK` as a number: the sum of the six bytes, negated in 16 bits (R130, R132). -/
theorem chk_toNat (v l c f pm pl : Byte) :
    (chk v l c f pm pl).toNat =
      (65536 - (v.toNat + l.toNat + c.toNat + f.toNat + pm.toNat + pl.toNat)) % 65536 := by
  have := v.isLt; have := l.isLt; have := c.isLt; have := f.isLt; have := pm.isLt; have := pl.isLt
  unfold chk
  rw [← BitVec.neg_eq_not_add]
  simp only [BitVec.toNat_neg, BitVec.toNat_add, BitVec.toNat_setWidth]
  omega

/-- `F[79:0]` as a number: ten base-256 digits, byte 0 the most significant (R11). -/
theorem wireWord_toNat (d : Slots Byte) : (wireWord d).toNat =
    ((((((((d.start.toNat * 256 + d.ver.toNat) * 256 + d.len.toNat) * 256 + d.cmd.toNat) * 256 + d.fb.toNat) * 256
      + d.pm.toNat) * 256 + d.pl.toNat) * 256 + d.cm.toNat) * 256 + d.cl.toNat) * 256 + d.fin.toNat := by
  have h : (wireWord d).toNat =
      (d.start ++ d.ver ++ d.len ++ d.cmd ++ d.fb ++ d.pm ++ d.pl ++ d.cm ++ d.cl ++ d.fin).toNat := rfl
  rw [h]
  simp only [append_toNat, Nat.reducePow]

/-- A byte above the lowest one does not see the lowest one. -/
theorem extract_append_high {m : Nat} (x : BitVec m) (y : Byte) (k : Nat) :
    (x ++ y).extractLsb' (k + 8) 8 = x.extractLsb' k 8 := by
  apply BitVec.eq_of_toNat_eq
  have hy := y.isLt
  have h : (x.toNat * 2 ^ 8 + y.toNat) / 2 ^ 8 = x.toNat := by omega
  simp only [BitVec.extractLsb'_toNat, append_toNat, Nat.shiftRight_eq_div_pow]
  rw [Nat.pow_add, Nat.mul_comm (2 ^ k) (2 ^ 8), ← Nat.div_div_eq_div_mul, h]

/-- The lowest byte is the last one joined. -/
theorem extract_append_low {m : Nat} (x : BitVec m) (y : Byte) : (x ++ y).extractLsb' 0 8 = y := by
  apply BitVec.eq_of_toNat_eq
  have hy := y.isLt
  simp only [BitVec.extractLsb'_toNat, append_toNat, Nat.shiftRight_eq_div_pow]
  omega

/-- Neighbouring pieces of a value join to the longer piece. -/
theorem extract_join {w : Nat} (F : BitVec w) (k m : Nat) :
    F.extractLsb' (k + 8) m ++ F.extractLsb' k 8 = F.extractLsb' k (m + 8) := by
  apply BitVec.eq_of_toNat_eq
  simp only [BitVec.extractLsb'_toNat, append_toNat, Nat.shiftRight_eq_div_pow]
  rw [Nat.pow_add 2 k 8, ← Nat.div_div_eq_div_mul, Nat.pow_add 2 m 8, Nat.mul_comm (2 ^ m) (2 ^ 8),
    Nat.mod_mul]
  omega

/-- The ten wire bytes of ten joined bytes (R11). -/
theorem wireByte_wireWord (d : Slots Byte) (k : Fin 10) : wireByte (wireWord d) k = slotAt d k := by
  match k with
  | 9 => exact extract_append_low _ d.fin
  | 8 => exact (extract_append_high _ d.fin 0).trans (extract_append_low _ d.cl)
  | 7 => exact (extract_append_high _ d.fin 8).trans ((extract_append_high _ d.cl 0).trans (extract_append_low _ d.cm))
  | 6 => exact (extract_append_high _ d.fin 16).trans ((extract_append_high _ d.cl 8).trans
      ((extract_append_high _ d.cm 0).trans (extract_append_low _ d.pl)))
  | 5 => exact (extract_append_high _ d.fin 24).trans ((extract_append_high _ d.cl 16).trans
      ((extract_append_high _ d.cm 8).trans ((extract_append_high _ d.pl 0).trans (extract_append_low _ d.pm))))
  | 4 => exact (extract_append_high _ d.fin 32).trans ((extract_append_high _ d.cl 24).trans
      ((extract_append_high _ d.cm 16).trans ((extract_append_high _ d.pl 8).trans
      ((extract_append_high _ d.pm 0).trans (extract_append_low _ d.fb)))))
  | 3 => exact (extract_append_high _ d.fin 40).trans ((extract_append_high _ d.cl 32).trans
      ((extract_append_high _ d.cm 24).trans ((extract_append_high _ d.pl 16).trans
      ((extract_append_high _ d.pm 8).trans ((extract_append_high _ d.fb 0).trans (extract_append_low _ d.cmd))))))
  | 2 => exact (extract_append_high _ d.fin 48).trans ((extract_append_high _ d.cl 40).trans
      ((extract_append_high _ d.cm 32).trans ((extract_append_high _ d.pl 24).trans
      ((extract_append_high _ d.pm 16).trans ((extract_append_high _ d.fb 8).trans
      ((extract_append_high _ d.cmd 0).trans (extract_append_low _ d.len)))))))
  | 1 => exact (extract_append_high _ d.fin 56).trans ((extract_append_high _ d.cl 48).trans
      ((extract_append_high _ d.cm 40).trans ((extract_append_high _ d.pl 32).trans
      ((extract_append_high _ d.pm 24).trans ((extract_append_high _ d.fb 16).trans
      ((extract_append_high _ d.cmd 8).trans ((extract_append_high _ d.len 0).trans
      (extract_append_low d.start d.ver))))))))
  | 0 => exact (extract_append_high _ d.fin 64).trans ((extract_append_high _ d.cl 56).trans
      ((extract_append_high _ d.cm 48).trans ((extract_append_high _ d.pl 40).trans
      ((extract_append_high _ d.pm 32).trans ((extract_append_high _ d.fb 24).trans
      ((extract_append_high _ d.cmd 16).trans ((extract_append_high _ d.len 8).trans
      ((extract_append_high d.start d.ver 0).trans (BitVec.extractLsb'_eq_self ..)))))))))

/-- Joining ten bytes loses none of them. -/
@[simp] theorem wireBytes_wireWord (d : Slots Byte) : wireBytes (wireWord d) = d := by
  simp only [wireBytes, wireByte_wireWord]
  rfl

/-- The ten bytes of `F[79:0]` joined again are `F`. -/
@[simp] theorem wireWord_wireBytes (F : FrameWord) : wireWord (wireBytes F) = F := by
  have h1 := extract_join F 64 8
  have h2 := extract_join F 56 16
  have h3 := extract_join F 48 24
  have h4 := extract_join F 40 32
  have h5 := extract_join F 32 40
  have h6 := extract_join F 24 48
  have h7 := extract_join F 16 56
  have h8 := extract_join F 8 64
  have h9 := extract_join F 0 72
  show F.extractLsb' 72 8 ++ F.extractLsb' 64 8 ++ F.extractLsb' 56 8 ++ F.extractLsb' 48 8 ++ F.extractLsb' 40 8 ++
    F.extractLsb' 32 8 ++ F.extractLsb' 24 8 ++ F.extractLsb' 16 8 ++ F.extractLsb' 8 8 ++ F.extractLsb' 0 8 = F
  simp only [Nat.reduceAdd] at h1 h2 h3 h4 h5 h6 h7 h8 h9 ⊢
  rw [h1, h2, h3, h4, h5, h6, h7, h8, h9]
  exact BitVec.extractLsb'_eq_self ..

end Sys2Proof.Machine

namespace Sys2Proof

/-- A key as a number: the state's code, then the byte (R113). -/
theorem rxKey_toNat (r : RxState) (b : Byte) : (rxKey r b).toNat = r.code.toNat * 256 + b.toNat :=
  Machine.append_toNat r.code b

@[simp] theorem keyState_rxKey (r : RxState) (b : Byte) : keyState (rxKey r b) = r.code := by
  have := b.isLt
  have := r.code.isLt
  apply BitVec.eq_of_toNat_eq
  simp only [keyState, BitVec.extractLsb'_toNat, Nat.shiftRight_eq_div_pow, rxKey_toNat]
  omega

@[simp] theorem keyByte_rxKey (r : RxState) (b : Byte) : keyByte (rxKey r b) = b := by
  have := b.isLt
  apply BitVec.eq_of_toNat_eq
  simp only [keyByte, BitVec.extractLsb'_toNat, Nat.shiftRight_eq_div_pow, rxKey_toNat]
  omega

/-- Different states have different codes (R30). -/
theorem code_inj {r r' : RxState} : r.code = r'.code ↔ r = r' := by
  constructor
  · intro h
    cases r <;> cases r' <;> first | rfl | exact absurd h (by decide)
  · rintro rfl; rfl

/-- A key determines its state and its byte. -/
theorem rxKey_inj {r r' : RxState} {b b' : Byte} : rxKey r b = rxKey r' b' ↔ r = r' ∧ b = b' := by
  constructor
  · intro h
    refine ⟨code_inj.1 ?_, ?_⟩
    · rw [← keyState_rxKey r b, h, keyState_rxKey]
    · rw [← keyByte_rxKey r b, h, keyByte_rxKey]
  · rintro ⟨rfl, rfl⟩; rfl

/-- The state of a code (R32). -/
@[simp] theorem ofCode_code (r : RxState) : RxState.ofCode r.code = some r := by cases r <;> rfl

end Sys2Proof
end

