-- ==== Sys2Proof/Laws/State.lean ====
section
/-! SUPPORT. One lemma per field per named update of the state, true by rfl. -/

namespace Sys2Proof.Machine

@[simp] theorem State.emit_out (s : State) (o : EventOut) : (s.emit o).out = s.out := rfl
@[simp] theorem State.emit_acc (s : State) (o : EventOut) : (s.emit o).acc = s.acc := rfl
@[simp] theorem State.emit_rxs (s : State) (o : EventOut) : (s.emit o).rxs = s.rxs := rfl
@[simp] theorem State.emit_feedback (s : State) (o : EventOut) : (s.emit o).feedback = s.feedback := rfl
@[simp] theorem State.emit_timeoutMs (s : State) (o : EventOut) : (s.emit o).timeoutMs = s.timeoutMs := rfl
@[simp] theorem State.emit_handover (s : State) (o : EventOut) : (s.emit o).handover = s.handover := rfl
@[simp] theorem State.emit_tx (s : State) (o : EventOut) : (s.emit o).tx = s.tx := rfl
@[simp] theorem State.emit_inputs (s : State) (o : EventOut) : (s.emit o).inputs = s.inputs := rfl
@[simp] theorem State.emit_outs (s : State) (o : EventOut) : (s.emit o).outs = [o] := rfl
@[simp] theorem State.emit_tick (s : State) (o : EventOut) : (s.emit o).tick = s.tick := rfl

@[simp] theorem State.setOut_out (s : State) (o : OutReg) : (s.setOut o).out = o := rfl
@[simp] theorem State.setOut_acc (s : State) (o : OutReg) : (s.setOut o).acc = s.acc := rfl
@[simp] theorem State.setOut_rxs (s : State) (o : OutReg) : (s.setOut o).rxs = s.rxs := rfl
@[simp] theorem State.setOut_feedback (s : State) (o : OutReg) : (s.setOut o).feedback = s.feedback := rfl
@[simp] theorem State.setOut_timeoutMs (s : State) (o : OutReg) : (s.setOut o).timeoutMs = s.timeoutMs := rfl
@[simp] theorem State.setOut_handover (s : State) (o : OutReg) : (s.setOut o).handover = s.handover := rfl
@[simp] theorem State.setOut_tx (s : State) (o : OutReg) : (s.setOut o).tx = s.tx := rfl
@[simp] theorem State.setOut_inputs (s : State) (o : OutReg) : (s.setOut o).inputs = s.inputs := rfl
@[simp] theorem State.setOut_outs (s : State) (o : OutReg) : (s.setOut o).outs = s.outs := rfl
@[simp] theorem State.setOut_tick (s : State) (o : OutReg) : (s.setOut o).tick = s.tick := rfl

@[simp] theorem State.setRx_out (s : State) (r : RxState) (a : Slots (Option Byte)) : (s.setRx r a).out = s.out := rfl
@[simp] theorem State.setRx_acc (s : State) (r : RxState) (a : Slots (Option Byte)) : (s.setRx r a).acc = a := rfl
@[simp] theorem State.setRx_rxs (s : State) (r : RxState) (a : Slots (Option Byte)) : (s.setRx r a).rxs = r := rfl
@[simp] theorem State.setRx_feedback (s : State) (r : RxState) (a : Slots (Option Byte)) : (s.setRx r a).feedback = s.feedback := rfl
@[simp] theorem State.setRx_timeoutMs (s : State) (r : RxState) (a : Slots (Option Byte)) : (s.setRx r a).timeoutMs = s.timeoutMs := rfl
@[simp] theorem State.setRx_handover (s : State) (r : RxState) (a : Slots (Option Byte)) : (s.setRx r a).handover = s.handover := rfl
@[simp] theorem State.setRx_tx (s : State) (r : RxState) (a : Slots (Option Byte)) : (s.setRx r a).tx = s.tx := rfl
@[simp] theorem State.setRx_inputs (s : State) (r : RxState) (a : Slots (Option Byte)) : (s.setRx r a).inputs = s.inputs := rfl
@[simp] theorem State.setRx_outs (s : State) (r : RxState) (a : Slots (Option Byte)) : (s.setRx r a).outs = s.outs := rfl
@[simp] theorem State.setRx_tick (s : State) (r : RxState) (a : Slots (Option Byte)) : (s.setRx r a).tick = s.tick := rfl

@[simp] theorem State.restart_out (s : State) : s.restart.out = s.out := rfl
@[simp] theorem State.restart_acc (s : State) : s.restart.acc = emptyAcc := rfl
@[simp] theorem State.restart_rxs (s : State) : s.restart.rxs = .awaitingStart := rfl
@[simp] theorem State.restart_feedback (s : State) : s.restart.feedback = s.feedback := rfl
@[simp] theorem State.restart_timeoutMs (s : State) : s.restart.timeoutMs = s.timeoutMs := rfl
@[simp] theorem State.restart_handover (s : State) : s.restart.handover = s.handover := rfl
@[simp] theorem State.restart_tx (s : State) : s.restart.tx = s.tx := rfl
@[simp] theorem State.restart_inputs (s : State) : s.restart.inputs = s.inputs := rfl
@[simp] theorem State.restart_outs (s : State) : s.restart.outs = s.outs := rfl
@[simp] theorem State.restart_tick (s : State) : s.restart.tick = s.tick := rfl

@[simp] theorem State.load_out (s : State) (d : Slots Byte) : (s.load d).out = s.out := rfl
@[simp] theorem State.load_acc (s : State) (d : Slots Byte) : (s.load d).acc = firstSlots 10 d := rfl
@[simp] theorem State.load_rxs (s : State) (d : Slots Byte) : (s.load d).rxs = .awaitingStart := rfl
@[simp] theorem State.load_feedback (s : State) (d : Slots Byte) : (s.load d).feedback = s.feedback := rfl
@[simp] theorem State.load_timeoutMs (s : State) (d : Slots Byte) : (s.load d).timeoutMs = s.timeoutMs := rfl
@[simp] theorem State.load_handover (s : State) (d : Slots Byte) : (s.load d).handover = s.handover := rfl
@[simp] theorem State.load_tx (s : State) (d : Slots Byte) : (s.load d).tx = s.tx := rfl
@[simp] theorem State.load_inputs (s : State) (d : Slots Byte) : (s.load d).inputs = s.inputs := rfl
@[simp] theorem State.load_outs (s : State) (d : Slots Byte) : (s.load d).outs = s.outs := rfl
@[simp] theorem State.load_tick (s : State) (d : Slots Byte) : (s.load d).tick = s.tick := rfl

@[simp] theorem State.sendFrame_out (s : State) : s.sendFrame.out = s.out := rfl
@[simp] theorem State.sendFrame_acc (s : State) : s.sendFrame.acc = s.acc := rfl
@[simp] theorem State.sendFrame_rxs (s : State) : s.sendFrame.rxs = s.rxs := rfl
@[simp] theorem State.sendFrame_feedback (s : State) : s.sendFrame.feedback = s.feedback := rfl
@[simp] theorem State.sendFrame_timeoutMs (s : State) : s.sendFrame.timeoutMs = s.timeoutMs := rfl
@[simp] theorem State.sendFrame_handover (s : State) : s.sendFrame.handover = [] := rfl
@[simp] theorem State.sendFrame_tx (s : State) : s.sendFrame.tx = s.tx ++ s.handover ++ wireOrder s.outBytes := rfl
@[simp] theorem State.sendFrame_inputs (s : State) : s.sendFrame.inputs = s.inputs := rfl
@[simp] theorem State.sendFrame_outs (s : State) : s.sendFrame.outs = s.outs := rfl
@[simp] theorem State.sendFrame_tick (s : State) : s.sendFrame.tick = s.tick := rfl

@[simp] theorem State.acceptSend_out (s : State) : s.acceptSend.out = s.out := rfl
@[simp] theorem State.acceptSend_acc (s : State) : s.acceptSend.acc = s.acc := rfl
@[simp] theorem State.acceptSend_rxs (s : State) : s.acceptSend.rxs = s.rxs := rfl
@[simp] theorem State.acceptSend_feedback (s : State) : s.acceptSend.feedback = s.feedback := rfl
@[simp] theorem State.acceptSend_timeoutMs (s : State) : s.acceptSend.timeoutMs = s.timeoutMs := rfl
@[simp] theorem State.acceptSend_handover (s : State) : s.acceptSend.handover = wireOrder s.outBytes := rfl
@[simp] theorem State.acceptSend_tx (s : State) : s.acceptSend.tx = s.tx := rfl
@[simp] theorem State.acceptSend_inputs (s : State) : s.acceptSend.inputs = s.inputs := rfl
@[simp] theorem State.acceptSend_outs (s : State) : s.acceptSend.outs = s.outs := rfl
@[simp] theorem State.acceptSend_tick (s : State) : s.acceptSend.tick = s.tick := rfl

@[simp] theorem State.resetCore_out (s : State) : s.resetCore.out = resetOut := rfl
@[simp] theorem State.resetCore_acc (s : State) : s.resetCore.acc = emptyAcc := rfl
@[simp] theorem State.resetCore_rxs (s : State) : s.resetCore.rxs = .awaitingStart := rfl
@[simp] theorem State.resetCore_feedback (s : State) : s.resetCore.feedback = s.feedback := rfl
@[simp] theorem State.resetCore_timeoutMs (s : State) : s.resetCore.timeoutMs = s.timeoutMs := rfl
@[simp] theorem State.resetCore_handover (s : State) : s.resetCore.handover = [] := rfl
@[simp] theorem State.resetCore_tx (s : State) : s.resetCore.tx = s.tx := rfl
@[simp] theorem State.resetCore_inputs (s : State) : s.resetCore.inputs = s.inputs := rfl
@[simp] theorem State.resetCore_outs (s : State) : s.resetCore.outs = s.outs := rfl
@[simp] theorem State.resetCore_tick (s : State) : s.resetCore.tick = s.tick := rfl

@[simp] theorem State.taking_out (s : State) (rest : List Input) : (s.taking rest).out = s.out := rfl
@[simp] theorem State.taking_acc (s : State) (rest : List Input) : (s.taking rest).acc = s.acc := rfl
@[simp] theorem State.taking_rxs (s : State) (rest : List Input) : (s.taking rest).rxs = s.rxs := rfl
@[simp] theorem State.taking_feedback (s : State) (rest : List Input) : (s.taking rest).feedback = s.feedback := rfl
@[simp] theorem State.taking_timeoutMs (s : State) (rest : List Input) : (s.taking rest).timeoutMs = s.timeoutMs := rfl
@[simp] theorem State.taking_handover (s : State) (rest : List Input) : (s.taking rest).handover = s.handover := rfl
@[simp] theorem State.taking_tx (s : State) (rest : List Input) : (s.taking rest).tx = s.tx := rfl
@[simp] theorem State.taking_inputs (s : State) (rest : List Input) : (s.taking rest).inputs = rest := rfl
@[simp] theorem State.taking_outs (s : State) (rest : List Input) : (s.taking rest).outs = s.outs := rfl
@[simp] theorem State.taking_tick (s : State) (rest : List Input) : (s.taking rest).tick = s.tick + 1 := rfl

@[simp] theorem State.idleStep_out (s : State) : s.idleStep.out = s.out := rfl
@[simp] theorem State.idleStep_acc (s : State) : s.idleStep.acc = s.acc := rfl
@[simp] theorem State.idleStep_rxs (s : State) : s.idleStep.rxs = s.rxs := rfl
@[simp] theorem State.idleStep_feedback (s : State) : s.idleStep.feedback = s.feedback := rfl
@[simp] theorem State.idleStep_timeoutMs (s : State) : s.idleStep.timeoutMs = s.timeoutMs := rfl
@[simp] theorem State.idleStep_handover (s : State) : s.idleStep.handover = s.handover := rfl
@[simp] theorem State.idleStep_tx (s : State) : s.idleStep.tx = s.tx := rfl
@[simp] theorem State.idleStep_inputs (s : State) : s.idleStep.inputs = s.inputs := rfl
@[simp] theorem State.idleStep_outs (s : State) : s.idleStep.outs = [] := rfl
@[simp] theorem State.idleStep_tick (s : State) : s.idleStep.tick = s.tick + 1 := rfl

@[simp] theorem State.emit_outBytes (s : State) (o : EventOut) : (s.emit o).outBytes = s.outBytes := rfl
@[simp] theorem State.setRx_outBytes (s : State) (r : RxState) (a : Slots (Option Byte)) : (s.setRx r a).outBytes = s.outBytes := rfl
@[simp] theorem State.restart_outBytes (s : State) : s.restart.outBytes = s.outBytes := rfl
@[simp] theorem State.load_outBytes (s : State) (d : Slots Byte) : (s.load d).outBytes = s.outBytes := rfl
@[simp] theorem State.sendFrame_outBytes (s : State) : s.sendFrame.outBytes = s.outBytes := rfl
@[simp] theorem State.acceptSend_outBytes (s : State) : s.acceptSend.outBytes = s.outBytes := rfl
@[simp] theorem State.taking_outBytes (s : State) (rest : List Input) : (s.taking rest).outBytes = s.outBytes := rfl
@[simp] theorem State.idleStep_outBytes (s : State) : s.idleStep.outBytes = s.outBytes := rfl

@[simp] theorem State.handOver_out (s : State) (ready : Bool) : (s.handOver ready).out = s.out := by
  unfold State.handOver; split <;> [rfl; (split <;> rfl)]
@[simp] theorem State.handOver_acc (s : State) (ready : Bool) : (s.handOver ready).acc = s.acc := by
  unfold State.handOver; split <;> [rfl; (split <;> rfl)]
@[simp] theorem State.handOver_rxs (s : State) (ready : Bool) : (s.handOver ready).rxs = s.rxs := by
  unfold State.handOver; split <;> [rfl; (split <;> rfl)]
@[simp] theorem State.handOver_feedback (s : State) (ready : Bool) : (s.handOver ready).feedback = s.feedback := by
  unfold State.handOver; split <;> [rfl; (split <;> rfl)]
@[simp] theorem State.handOver_timeoutMs (s : State) (ready : Bool) : (s.handOver ready).timeoutMs = s.timeoutMs := by
  unfold State.handOver; split <;> [rfl; (split <;> rfl)]
@[simp] theorem State.handOver_inputs (s : State) (ready : Bool) : (s.handOver ready).inputs = s.inputs := by
  unfold State.handOver; split <;> [rfl; (split <;> rfl)]
@[simp] theorem State.handOver_outs (s : State) (ready : Bool) : (s.handOver ready).outs = s.outs := by
  unfold State.handOver; split <;> [rfl; (split <;> rfl)]
@[simp] theorem State.handOver_tick (s : State) (ready : Bool) : (s.handOver ready).tick = s.tick := by
  unfold State.handOver; split <;> [rfl; (split <;> rfl)]

/-- A hand-over cycle neither loses nor invents a byte. -/
theorem State.handOver_stream (s : State) (ready : Bool) :
    (s.handOver ready).tx ++ (s.handOver ready).handover = s.tx ++ s.handover := by
  unfold State.handOver
  split
  · rfl
  · rename_i b rest h
    split <;> simp [h]

/-- A hand-over cycle with `tx_ready` moves the oldest byte. -/
theorem State.handOver_ready (s : State) (b : Byte) (rest : List Byte) (h : s.handover = b :: rest) :
    s.handOver true = { s with handover := rest, tx := s.tx ++ [b] } := by
  simp [State.handOver, h]

/-- Without `tx_ready` nothing is handed over. -/
theorem State.handOver_notReady (s : State) : s.handOver false = s := by
  unfold State.handOver; split <;> simp

end Sys2Proof.Machine
end

