-- ==== Sys2Proof/Laws/Ops.lean ====
section
/-! SUPPORT. What each shared operation can do, once for each. -/

namespace Sys2Proof.Machine

/-! ### Running events -/

@[simp] theorem finishOne_ok (s : State) (o : EventOut) : finishOne (.ok (s, o)) = .next (s.emit o) := rfl

@[simp] theorem finishOne_error (f : Fault) : finishOne (.error f) = .fault f := rfl

@[simp] theorem finish_ok (s : State) (os : List EventOut) : finish (.ok (s, os)) = .next { s with outs := os } := rfl

@[simp] theorem finish_error (f : Fault) : finish (.error f) = .fault f := rfl

/-- A step of two parts answers a next state exactly when both parts do; its outputs are those of both. -/
theorem chainOuts_eq_next {o : Outcome} {f : State → Outcome} {t : State} :
    chainOuts o f = .next t ↔
      ∃ s1 s2, o = .next s1 ∧ f s1 = .next s2 ∧ t = { s2 with outs := s1.outs ++ s2.outs } := by
  cases o with
  | next s1 =>
    cases h : f s1 with
    | next s2 => simp [chainOuts, h, eq_comm]
    | fault r => simp [chainOuts, h]
    | refused r => simp [chainOuts, h]
  | fault r => simp [chainOuts]
  | refused r => simp [chainOuts]

/-- An RXEVT instruction in the state that its key names. -/
@[simp] theorem inState_same (s : State) (ran : RanOne) : inState s.rxs s ran = finishOne ran := by simp [inState]

/-! ### The accumulator -/

/-- Slot `i` of the first `n` slots (R27). -/
theorem slotAt_firstSlots (n : Nat) (d : Slots Byte) (i : Fin 10) :
    slotAt (firstSlots n d) i = if i.val < n then some (slotAt d i) else none := by
  match i with
  | 0 => rfl
  | 1 => rfl
  | 2 => rfl
  | 3 => rfl
  | 4 => rfl
  | 5 => rfl
  | 6 => rfl
  | 7 => rfl
  | 8 => rfl
  | 9 => rfl

@[simp] theorem firstSlots_zero (d : Slots Byte) : firstSlots 0 d = emptyAcc := rfl

/-- The invariant does not look at anything but `RXS` and `ACC`. -/
theorem accInv_congr {s t : State} (hr : t.rxs = s.rxs) (ha : t.acc = s.acc) : AccInv t ↔ AccInv s := by
  simp [AccInv, hr, ha]

/-- The invariant does not look at anything but `OUT` and `FEEDBACK`. -/
theorem outInv_congr {s t : State} (ho : t.out = s.out) (hf : t.feedback = s.feedback) : OutInv t ↔ OutInv s := by
  simp [OutInv, State.outBytes, ho, hf]

/-- After a restart `ACC` is as R27 says. -/
theorem accInv_restart (s : State) : AccInv s.restart := by simp [AccInv]

/-- After a load `ACC` is as R27 says. -/
theorem accInv_load (s : State) (d : Slots Byte) : AccInv (s.load d) := by
  simp only [AccInv, State.load_rxs, State.load_acc, if_true]
  exact Or.inr ⟨d, rfl⟩

/-- An encode operation leaves `OUT` as R24 says. -/
theorem outInv_encodeCommon (op : Byte) (p : Half) (s : State) : OutInv (encodeCommon op p s) := by
  simp [OutInv, encodeCommon, expectedChecksum, State.outBytes]

/-- Reset leaves `OUT` as R24 says. -/
theorem outInv_reset (s : State) (h : s.out = resetOut) : OutInv s := by
  refine ⟨?_, Or.inr h⟩
  simp only [expectedChecksum, State.outBytes, h]
  decide

/-! ### Reading the accumulator -/

theorem readSlot_ok {s : State} {i : Fin 10} {b : Byte} (h : slotAt s.acc i = some b) : readSlot s i = .ok b := by
  simp [readSlot, h]

theorem readSlot_empty {s : State} {i : Fin 10} (h : slotAt s.acc i = none) :
    readSlot s i = .error (.emptySlotRead i) := by
  simp [readSlot, h]

/-- A read that faults names an `EMPTY` slot. -/
theorem readSlot_error {s : State} {i : Fin 10} {f : Fault} (h : readSlot s i = .error f) :
    slotAt s.acc i = none ∧ f = .emptySlotRead i := by
  unfold readSlot at h
  split at h
  · cases h
  · rename_i hn
    cases h
    exact ⟨hn, rfl⟩

/-- The judgement of state 8 where the slots that it reads are filled (R180). -/
theorem judgeChecksum_filled {s : State} {v l c f pm pl m : Byte} (b : Byte) (h1 : s.acc.ver = some v)
    (h2 : s.acc.len = some l) (h3 : s.acc.cmd = some c) (h4 : s.acc.fb = some f) (h5 : s.acc.pm = some pm)
    (h6 : s.acc.pl = some pl) (h7 : s.acc.cm = some m) :
    judgeChecksum b s = .ok (if half m b = chk v l c f pm pl then
      (s.setRx .awaitingEnd { s.acc with cl := some b }, {}) else raise .checksum s) := by
  have e1 : readSlot s 1 = .ok v := readSlot_ok h1
  have e2 : readSlot s 2 = .ok l := readSlot_ok h2
  have e3 : readSlot s 3 = .ok c := readSlot_ok h3
  have e4 : readSlot s 4 = .ok f := readSlot_ok h4
  have e5 : readSlot s 5 = .ok pm := readSlot_ok h5
  have e6 : readSlot s 6 = .ok pl := readSlot_ok h6
  have e7 : readSlot s 7 = .ok m := readSlot_ok h7
  simp only [judgeChecksum, accumulatedChecksum, e1, e2, e3, e4, e5, e6, e7, bind, Except.bind, pure, Except.pure]
  split <;> rfl

/-- The delivery of state 9 where the slots that it reads are filled (R181). -/
theorem deliverFrame_filled {s : State} {d : Slots Byte} (h : s.acc = firstSlots 9 d) :
    deliverFrame s = .ok (s.restart,
      { result := .frame (recordOf { d with fin := Config.endMarker })
        peer := some (peerReport (recordOf { d with fin := Config.endMarker })) }) := by
  have e (i : Fin 10) (hi : i.val < 9) : readSlot s i = .ok (slotAt d i) :=
    readSlot_ok (by rw [h, slotAt_firstSlots, if_pos hi])
  simp only [deliverFrame, completedFrame, e 0 (by decide), e 1 (by decide), e 2 (by decide), e 3 (by decide),
    e 4 (by decide), e 5 (by decide), e 6 (by decide), e 7 (by decide), e 8 (by decide), bind, Except.bind, pure,
    Except.pure]
  rfl

/-! ### What a receiver event can do -/

/-- A byte event that answers does one of five things: it discards the byte in state 0; accepts the start marker; accepts
a byte in one of the states 1 to 8, one state further and nothing reported; reports an error; or delivers a frame. -/
theorem rxByteEvent_cases {b : Byte} {s t : State} {o : EventOut} (h : rxByteEvent b s = .ok (t, o)) :
    (s.rxs = .awaitingStart ∧ b ≠ Config.startMarker ∧ t = s ∧ o = {}) ∨
    (s.rxs = .awaitingStart ∧ b = Config.startMarker ∧ (t, o) = acceptStart s) ∨
    (s.rxs ≠ .awaitingStart ∧ o = {} ∧ ∃ r a, t = s.setRx r a ∧ r.code = s.rxs.code + 1#4) ∨
    (s.rxs ≠ .awaitingStart ∧ ∃ k, (t, o) = raise k s) ∨
    (s.rxs = .awaitingEnd ∧ b = Config.endMarker ∧ t = s.restart ∧
      ∃ d, completedFrame s = .ok d ∧
        o = { result := .frame (recordOf d), peer := some (peerReport (recordOf d)) }) := by
  unfold rxByteEvent at h
  split at h <;> rename_i hr
  · by_cases hb : b = Config.startMarker
    · rw [if_pos hb] at h; cases h; exact .inr (.inl ⟨hr, hb, rfl⟩)
    · rw [if_neg hb] at h; cases h; exact .inl ⟨hr, hb, rfl, rfl⟩
  · by_cases hb : b = Config.version
    · rw [if_pos hb] at h; cases h
      exact .inr (.inr (.inl ⟨by simp [hr], rfl, _, _, rfl, by rw [hr]; rfl⟩))
    · rw [if_neg hb] at h; cases h; exact .inr (.inr (.inr (.inl ⟨by simp [hr], _, rfl⟩)))
  · by_cases hb : b = Config.length
    · rw [if_pos hb] at h; cases h
      exact .inr (.inr (.inl ⟨by simp [hr], rfl, _, _, rfl, by rw [hr]; rfl⟩))
    · rw [if_neg hb] at h; cases h; exact .inr (.inr (.inr (.inl ⟨by simp [hr], _, rfl⟩)))
  · cases h; exact .inr (.inr (.inl ⟨by simp [hr], rfl, _, _, rfl, by rw [hr]; rfl⟩))
  · cases h; exact .inr (.inr (.inl ⟨by simp [hr], rfl, _, _, rfl, by rw [hr]; rfl⟩))
  · cases h; exact .inr (.inr (.inl ⟨by simp [hr], rfl, _, _, rfl, by rw [hr]; rfl⟩))
  · cases h; exact .inr (.inr (.inl ⟨by simp [hr], rfl, _, _, rfl, by rw [hr]; rfl⟩))
  · cases h; exact .inr (.inr (.inl ⟨by simp [hr], rfl, _, _, rfl, by rw [hr]; rfl⟩))
  · unfold judgeChecksum at h
    simp only [bind, Except.bind] at h
    split at h
    · cases h
    · split at h
      · cases h
      · split at h
        · cases h; exact .inr (.inr (.inl ⟨by simp [hr], rfl, _, _, rfl, by rw [hr]; rfl⟩))
        · cases h; exact .inr (.inr (.inr (.inl ⟨by simp [hr], _, rfl⟩)))
  · by_cases hb : b = Config.endMarker
    · rw [if_pos hb] at h
      unfold deliverFrame at h
      simp only [bind, Except.bind] at h
      split at h
      · cases h
      · rename_i d hd
        cases h
        exact .inr (.inr (.inr (.inr ⟨hr, hb, rfl, d, hd, rfl⟩)))
    · rw [if_neg hb] at h; cases h; exact .inr (.inr (.inr (.inl ⟨by simp [hr], _, rfl⟩)))

/-- A byte event changes nothing but `RXS` and `ACC`. -/
theorem rxByteEvent_frame {b : Byte} {s t : State} {o : EventOut} (h : rxByteEvent b s = .ok (t, o)) :
    t = s.setRx t.rxs t.acc := by
  rcases rxByteEvent_cases h with ⟨-, -, rfl, -⟩ | ⟨-, -, h⟩ | ⟨-, -, r, a, rfl, -⟩ | ⟨-, k, h⟩ | ⟨-, -, rfl, -⟩
  · rfl
  · cases h; rfl
  · rfl
  · cases h; rfl
  · rfl

/-- A poll changes nothing but `RXS` and `ACC`. -/
theorem rxIdleEvent_frame (expired : Bool) (s : State) :
    (rxIdleEvent expired s).1 = s.setRx (rxIdleEvent expired s).1.rxs (rxIdleEvent expired s).1.acc := by
  unfold rxIdleEvent; split <;> rfl

/-- Byte events change nothing but `RXS` and `ACC`. -/
theorem rxBytes_frame {bs : List Byte} {s t : State} {os : List EventOut} (h : rxBytes bs s = .ok (t, os)) :
    t = s.setRx t.rxs t.acc := by
  induction bs generalizing s t os with
  | nil => cases h; rfl
  | cons b rest ih =>
    simp only [rxBytes] at h
    split at h
    · cases h
    · rename_i s1 o h1
      split at h
      · cases h
      · rename_i s2 os2 h2
        cases h
        have e := ih h2
        rw [rxByteEvent_frame h1] at e
        exact e

/-- Byte events: one output each. -/
theorem rxBytes_length {bs : List Byte} {s t : State} {os : List EventOut} (h : rxBytes bs s = .ok (t, os)) :
    os.length = bs.length := by
  induction bs generalizing s t os with
  | nil => cases h; rfl
  | cons b rest ih =>
    simp only [rxBytes] at h
    split at h
    · cases h
    · split at h
      · cases h
      · rename_i s2 os2 h2
        cases h
        simp [ih h2]

end Sys2Proof.Machine
end

