-- ==== Sys2Proof/Laws/Receiver.lean ====
section
/-! SUPPORT. The receiver's events from states that meet the fill invariant: they answer, and keep it. -/

namespace Sys2Proof.Machine

/-- A decoded byte event runs the byte event of the current state (R113, R172 to R181). -/
theorem exec_decodeRxByte (b : Byte) (s : State) :
    exec (decodeRxByte s.rxs b) s = finishOne (rxByteEvent b s) := by
  cases hr : s.rxs <;> simp only [rxByteEvent, decodeRxByte, hr]
  case awaitingStart => split <;> simp [exec, execRxStart, execRxDiscard, inState, hr]
  case awaitingVersion => split <;> simp [exec, execRxVersionOk, execRxVersionBad, inState, hr]
  case awaitingLength => split <;> simp [exec, execRxLengthOk, execRxLengthBad, inState, hr]
  case awaitingEnd => split <;> simp [exec, execRxEndOk, execRxEndBad, inState, hr]
  all_goals simp [exec, execRxCommand, execRxFeedback, execRxParamMsb, execRxParamLsb, execRxChecksumMsb,
    execRxChecksumLsb, inState, hr]

/-- From a state with the fill invariant a byte event answers, and keeps it (R27, R72). -/
theorem rxByteEvent_total {s : State} (b : Byte) (h : AccInv s) :
    ∃ t o, rxByteEvent b s = .ok (t, o) ∧ AccInv t := by
  unfold AccInv at h
  unfold rxByteEvent
  split <;> rename_i hr <;> simp only [hr, reduceCtorEq, if_false, if_true] at h
  · split
    · refine ⟨_, _, rfl, ?_⟩
      simp only [AccInv, State.setRx_rxs, State.setRx_acc, reduceCtorEq, if_false]
      exact ⟨⟨Config.startMarker, 0, 0, 0, 0, 0, 0, 0, 0, 0⟩, rfl, rfl, by decide, by decide, by decide⟩
    · exact ⟨s, _, rfl, by simpa [AccInv, hr] using h⟩
  · obtain ⟨d, ha, hp, -⟩ := h
    split
    · refine ⟨_, _, rfl, ?_⟩
      simp only [AccInv, State.setRx_rxs, State.setRx_acc, reduceCtorEq, if_false]
      exact ⟨{ d with ver := Config.version }, by rw [ha]; rfl, hp, fun _ => rfl, fun h => absurd h (by decide), fun h => absurd h (by decide)⟩
    · exact ⟨_, _, rfl, accInv_restart s⟩
  · obtain ⟨d, ha, hp, hv, -⟩ := h
    split
    · refine ⟨_, _, rfl, ?_⟩
      simp only [AccInv, State.setRx_rxs, State.setRx_acc, reduceCtorEq, if_false]
      exact ⟨{ d with len := Config.length }, by rw [ha]; rfl, hp, fun _ => hv (by decide), fun _ => rfl, fun h => absurd h (by decide)⟩
    · exact ⟨_, _, rfl, accInv_restart s⟩
  · obtain ⟨d, ha, hp, hv, hl, -⟩ := h
    refine ⟨_, _, rfl, ?_⟩
    simp only [AccInv, State.setRx_rxs, State.setRx_acc, reduceCtorEq, if_false]
    exact ⟨{ d with cmd := b }, by rw [ha]; rfl, hp, fun _ => hv (by decide), fun _ => hl (by decide), fun h => absurd h (by decide)⟩
  · obtain ⟨d, ha, hp, hv, hl, -⟩ := h
    refine ⟨_, _, rfl, ?_⟩
    simp only [AccInv, State.setRx_rxs, State.setRx_acc, reduceCtorEq, if_false]
    exact ⟨{ d with fb := b }, by rw [ha]; rfl, hp, fun _ => hv (by decide), fun _ => hl (by decide), fun h => absurd h (by decide)⟩
  · obtain ⟨d, ha, hp, hv, hl, -⟩ := h
    refine ⟨_, _, rfl, ?_⟩
    simp only [AccInv, State.setRx_rxs, State.setRx_acc, reduceCtorEq, if_false]
    exact ⟨{ d with pm := b }, by rw [ha]; rfl, hp, fun _ => hv (by decide), fun _ => hl (by decide), fun h => absurd h (by decide)⟩
  · obtain ⟨d, ha, hp, hv, hl, -⟩ := h
    refine ⟨_, _, rfl, ?_⟩
    simp only [AccInv, State.setRx_rxs, State.setRx_acc, reduceCtorEq, if_false]
    exact ⟨{ d with pl := b }, by rw [ha]; rfl, hp, fun _ => hv (by decide), fun _ => hl (by decide), fun h => absurd h (by decide)⟩
  · obtain ⟨d, ha, hp, hv, hl, -⟩ := h
    refine ⟨_, _, rfl, ?_⟩
    simp only [AccInv, State.setRx_rxs, State.setRx_acc, reduceCtorEq, if_false]
    exact ⟨{ d with cm := b }, by rw [ha]; rfl, hp, fun _ => hv (by decide), fun _ => hl (by decide), fun h => absurd h (by decide)⟩
  · obtain ⟨d, ha, hp, hv, hl, -⟩ := h
    rw [judgeChecksum_filled b (v := d.ver) (l := d.len) (c := d.cmd) (f := d.fb) (pm := d.pm) (pl := d.pl) (m := d.cm)
      (by rw [ha]; rfl) (by rw [ha]; rfl) (by rw [ha]; rfl) (by rw [ha]; rfl) (by rw [ha]; rfl) (by rw [ha]; rfl)
      (by rw [ha]; rfl)]
    split
    · rename_i hk
      refine ⟨_, _, rfl, ?_⟩
      simp only [AccInv, State.setRx_rxs, State.setRx_acc, reduceCtorEq, if_false]
      exact ⟨{ d with cl := b }, by rw [ha]; rfl, hp, fun _ => hv (by decide), fun _ => hl (by decide), fun _ => hk⟩
    · exact ⟨_, _, rfl, accInv_restart s⟩
  · obtain ⟨d, ha, -⟩ := h
    split
    · rw [deliverFrame_filled ha]; exact ⟨_, _, rfl, accInv_restart s⟩
    · exact ⟨_, _, rfl, accInv_restart s⟩

/-- The same for byte events one after the other. -/
theorem rxBytes_total {s : State} (bs : List Byte) (h : AccInv s) : ∃ t os, rxBytes bs s = .ok (t, os) ∧ AccInv t := by
  induction bs generalizing s with
  | nil => exact ⟨s, [], rfl, h⟩
  | cons b rest ih =>
    obtain ⟨s1, o, h1, hi⟩ := rxByteEvent_total b h
    obtain ⟨t, os, h2, ht⟩ := ih hi
    exact ⟨t, o :: os, by simp [rxBytes, h1, h2], ht⟩

theorem rxIdleEvent_accInv {s : State} (e : Bool) (h : AccInv s) : AccInv (rxIdleEvent e s).1 := by
  unfold rxIdleEvent; split
  · exact accInv_restart s
  · exact h

/-! ### Whole frames -/

/-- One byte event more, in front. -/
theorem rxBytes_cons {b : Byte} {rest : List Byte} {s s1 : State} {o : EventOut}
    (h : rxByteEvent b s = .ok (s1, o)) :
    rxBytes (b :: rest) s = match rxBytes rest s1 with
      | .error f => .error f
      | .ok p => .ok (p.1, o :: p.2) := by
  simp only [rxBytes, h]
  cases rxBytes rest s1 <;> rfl

/-- The first eight bytes of any frame with the fixed markers, from awaiting-start. -/
theorem rxBytes_prefix (d : Slots Byte) (s : State) (rest : List Byte) (hs : s.rxs = .awaitingStart)
    (h0 : d.start = Config.startMarker) (h1 : d.ver = Config.version) (h2 : d.len = Config.length) :
    rxBytes (d.start :: d.ver :: d.len :: d.cmd :: d.fb :: d.pm :: d.pl :: d.cm :: rest) s =
      match rxBytes rest (s.setRx .awaitingChecksumLsb (firstSlots 8 d)) with
      | .error f => .error f
      | .ok p => .ok (p.1, { arm := some s.timeoutMs } :: {} :: {} :: {} :: {} :: {} :: {} :: {} :: p.2) := by
  have a0 : rxByteEvent d.start s = .ok (s.setRx .awaitingVersion (firstSlots 1 d), { arm := some s.timeoutMs }) := by
    unfold rxByteEvent; rw [hs, h0]; simp only [if_true, acceptStart]; congr 3; simp [firstSlots, emptyAcc, h0]
  have a1 (r) (x : Slots (Option Byte)) (hr : r = .awaitingVersion) (hx : x = firstSlots 1 d) :
      rxByteEvent d.ver (s.setRx r x) = .ok (s.setRx .awaitingLength (firstSlots 2 d), {}) := by
    subst hr hx; unfold rxByteEvent; rw [h1]; simp [acceptVersion, firstSlots, State.setRx, h1]
  have a2 : rxByteEvent d.len (s.setRx .awaitingLength (firstSlots 2 d)) =
      .ok (s.setRx .awaitingCommand (firstSlots 3 d), {}) := by
    unfold rxByteEvent; rw [h2]; simp [acceptLength, firstSlots, State.setRx, h2]
  rw [rxBytes_cons a0, rxBytes_cons (a1 _ _ rfl rfl), rxBytes_cons a2]
  rw [rxBytes_cons (s1 := s.setRx .awaitingFeedback (firstSlots 4 d)) (o := {}) rfl,
    rxBytes_cons (s1 := s.setRx .awaitingParamMsb (firstSlots 5 d)) (o := {}) rfl,
    rxBytes_cons (s1 := s.setRx .awaitingParamLsb (firstSlots 6 d)) (o := {}) rfl,
    rxBytes_cons (s1 := s.setRx .awaitingChecksumMsb (firstSlots 7 d)) (o := {}) rfl,
    rxBytes_cons (s1 := s.setRx .awaitingChecksumLsb (firstSlots 8 d)) (o := {}) rfl]
  cases rxBytes rest (s.setRx .awaitingChecksumLsb (firstSlots 8 d)) <;> rfl

/-- The last checksum byte of such a frame. -/
theorem rxByteEvent_checksumLsb (d : Slots Byte) (s : State) :
    rxByteEvent d.cl (s.setRx .awaitingChecksumLsb (firstSlots 8 d)) =
      .ok (if half d.cm d.cl = expectedChecksum d then (s.setRx .awaitingEnd (firstSlots 9 d), {})
        else (s.restart, { result := .err .checksum })) := by
  show judgeChecksum d.cl _ = _
  rw [judgeChecksum_filled (v := d.ver) (l := d.len) (c := d.cmd) (f := d.fb) (pm := d.pm) (pl := d.pl) (m := d.cm)
      d.cl rfl rfl rfl rfl rfl rfl rfl]
  rfl

/-- A good frame's ten bytes, from awaiting-start (R183). -/
theorem rxBytes_good (d : Slots Byte) (s : State) (hs : s.rxs = .awaitingStart)
    (h0 : d.start = Config.startMarker) (h1 : d.ver = Config.version) (h2 : d.len = Config.length)
    (hk : half d.cm d.cl = expectedChecksum d) (h9 : d.fin = Config.endMarker) :
    rxBytes (wireOrder d) s = .ok (s.restart, [{ arm := some s.timeoutMs }, {}, {}, {}, {}, {}, {}, {}, {},
      { result := .frame (recordOf d), peer := some (peerReport (recordOf d)) }]) := by
  have e : rxByteEvent d.fin (s.setRx .awaitingEnd (firstSlots 9 d)) = .ok (s.restart,
      { result := .frame (recordOf d), peer := some (peerReport (recordOf d)) }) := by
    rw [h9]
    show deliverFrame _ = _
    rw [deliverFrame_filled rfl, ← h9]
    rfl
  rw [wireOrder, rxBytes_prefix d s _ hs h0 h1 h2, rxBytes_cons ((rxByteEvent_checksumLsb d s).trans (by rw [if_pos hk])),
    rxBytes_cons e]
  rfl

/-- A frame with the fixed markers and a checksum that does not match (R180, R172). -/
theorem rxBytes_badChecksum (d : Slots Byte) (s : State) (hs : s.rxs = .awaitingStart)
    (h0 : d.start = Config.startMarker) (h1 : d.ver = Config.version) (h2 : d.len = Config.length)
    (hk : half d.cm d.cl ≠ expectedChecksum d) (h9 : d.fin ≠ Config.startMarker) :
    rxBytes (wireOrder d) s = .ok (s.restart, [{ arm := some s.timeoutMs }, {}, {}, {}, {}, {}, {}, {},
      { result := .err .checksum }, {}]) := by
  have e : rxByteEvent d.fin s.restart = .ok (s.restart, {}) := by
    show Except.ok (if _ then _ else _) = _
    rw [if_neg h9]; rfl
  rw [wireOrder, rxBytes_prefix d s _ hs h0 h1 h2, rxBytes_cons ((rxByteEvent_checksumLsb d s).trans (by rw [if_neg hk])),
    rxBytes_cons e]
  rfl

/-! ### The receive loop -/

/-- The receive loop answers, keeps the fill invariant, and changes nothing but `RXS`, `ACC` and the inputs. -/
theorem receiveLoop_total {s : State} (ins : List Input) (h : AccInv s) :
    ∃ t os, receiveLoop ins s = .ok (t, os) ∧ AccInv t ∧ t = { s.setRx t.rxs t.acc with inputs := t.inputs } := by
  fun_induction receiveLoop ins s with
  | case1 s b rest f h1 =>
    obtain ⟨t, o, h2, -⟩ := rxByteEvent_total b h
    rw [h1] at h2; cases h2
  | case2 s b rest s1 o h1 hn f hl ih =>
    obtain ⟨t, o', h2, hi⟩ := rxByteEvent_total b h
    rw [h1] at h2; cases h2
    obtain ⟨t, os, h3, -⟩ := ih hi
    rw [hl] at h3; cases h3
  | case3 s b rest s1 o h1 hn s2 os hl ih =>
    obtain ⟨t, o', h2, hi⟩ := rxByteEvent_total b h
    rw [h1] at h2; cases h2
    obtain ⟨t, os', h3, ht, e⟩ := ih hi
    rw [hl] at h3; cases h3
    refine ⟨_, _, rfl, ht, ?_⟩
    rw [rxByteEvent_frame h1] at e
    exact e
  | case4 s b rest s1 o h1 hn =>
    obtain ⟨t, o', h2, hi⟩ := rxByteEvent_total b h
    rw [h1] at h2; cases h2
    refine ⟨_, _, rfl, (accInv_congr rfl rfl).2 hi, ?_⟩
    have e := rxByteEvent_frame h1
    rw [e]; rfl
  | case5 s e rest s1 o h1 hn f hl ih =>
    have hi := rxIdleEvent_accInv e h
    rw [h1] at hi
    obtain ⟨t, os, h3, -⟩ := ih hi
    rw [hl] at h3; cases h3
  | case6 s e rest s1 o h1 hn s2 os hl ih =>
    have hi := rxIdleEvent_accInv e h
    have hf := rxIdleEvent_frame e s
    rw [h1] at hi hf
    change s1 = s.setRx s1.rxs s1.acc at hf
    obtain ⟨t, os', h3, ht, e⟩ := ih hi
    rw [hl] at h3; cases h3
    refine ⟨_, _, rfl, ht, ?_⟩
    rw [hf] at e
    exact e
  | case7 s e rest s1 o h1 hn =>
    have hi := rxIdleEvent_accInv e h
    have hf := rxIdleEvent_frame e s
    rw [h1] at hi hf
    change s1 = s.setRx s1.rxs s1.acc at hf
    refine ⟨_, _, rfl, (accInv_congr rfl rfl).2 hi, ?_⟩
    rw [hf]; rfl
  | case8 s w _ _ => exact ⟨_, _, rfl, (accInv_congr rfl rfl).2 h, rfl⟩

end Sys2Proof.Machine
end

