-- ==== Sys2Proof/Laws/Binding.lean ====
section
/-! SUPPORT. What a receiver event, a cycle's encoder part and the result port can do. -/

namespace Sys2Proof.Machine

/-! ### The receiver's event -/

/-- A byte event asks for no refusal pulse (R155 is the encoder's). -/
theorem rxByteEvent_encRefused {b : Byte} {s t : State} {o : EventOut} (h : rxByteEvent b s = .ok (t, o)) :
    o.encRefused = false := by
  rcases rxByteEvent_cases h with ⟨-, -, -, rfl⟩ | ⟨-, -, h⟩ | ⟨-, rfl, -⟩ | ⟨-, k, h⟩ | ⟨-, -, -, d, -, rfl⟩
  · rfl
  · cases h; rfl
  · rfl
  · cases h; rfl
  · rfl

/-- A receiver event that answers changes nothing but `RXS` and `ACC`, has one output, and refuses no request. -/
theorem exec_rcvEvent_frame {f : Event} {s t : State} (hf : rcvEvent f = true)
    (h : exec (decodeEvent s.rxs f) s = .next t) :
    ∃ o, t = (s.setRx t.rxs t.acc).emit o ∧ o.encRefused = false := by
  cases f <;> simp only [rcvEvent, Bool.false_eq_true] at hf
  case rxByte b =>
    change exec (decodeRxByte _ _) _ = _ at h
    rw [exec_decodeRxByte] at h
    cases h1 : rxByteEvent b s with
    | error r => rw [h1] at h; cases h
    | ok q =>
      obtain ⟨s1, o⟩ := q
      rw [h1] at h; cases h
      exact ⟨o, congrArg (·.emit o) (rxByteEvent_frame h1), rxByteEvent_encRefused h1⟩
  case rxIdle expired =>
    change Host.Outcome.next ((rxIdleEvent expired s).1.emit (rxIdleEvent expired s).2) = _ at h
    have e := (Host.Outcome.next.inj h).symm
    subst e
    refine ⟨_, congrArg (fun x : State => x.emit _) (rxIdleEvent_frame expired s), ?_⟩
    unfold rxIdleEvent
    split <;> rfl
  case rxLoad d => cases h; exact ⟨{}, rfl, rfl⟩
  case rxAbort => cases h; exact ⟨{}, rfl, rfl⟩

/-- The event of a cycle is a receiver event (R45). -/
theorem rcvEvent_receiverEvent (p : InPorts) : rcvEvent (receiverEvent p) = true := by
  unfold receiverEvent
  split
  · rfl
  split
  · rfl
  split <;> rfl

/-! ### The encoder's part of a cycle -/

/-- While bytes are left the encoder's part is the hand-over alone (R45). -/
theorem encoderCycle_busy (p : InPorts) {s : State} (h : s.handover ≠ []) :
    encoderCycle p s = .next { s.handOver p.txReady with outs := [] } := by
  unfold encoderCycle
  cases hs : s.handover with
  | nil => exact absurd hs h
  | cons b left => rfl

/-- With nothing left the encoder takes the request, if there is one, and then the `Send` (R45). -/
theorem encoderCycle_free (p : InPorts) {s : State} (h : s.handover = []) :
    encoderCycle p s = chainOuts
      (if p.encValid then exec (decodeRequest p.encOp p.encA p.encB) s else .next { s with outs := [] })
      (fun s1 => .next { (if p.txSend then s1.acceptSend else s1) with outs := [] }) := by
  unfold encoderCycle
  rw [h]

/-! ### The result port -/

/-- No event of the step has a result. -/
theorem resultOf_none {os : List EventOut} (h : ∀ o ∈ os, o.result = .none) : resultOf os = .none := by
  unfold resultOf
  rw [List.find?_eq_none.2 (fun o ho => by simp [h o ho, Result.isNone])]

/-- The first result that is not `NONE` is the one shown. -/
theorem resultOf_first {before after : List EventOut} {o : EventOut} (h : ∀ x ∈ before, x.result = .none)
    (ho : o.result ≠ .none) : resultOf (before ++ o :: after) = o.result := by
  have hn : (!o.result.isNone) = true := by
    cases hr : o.result with
    | none => exact absurd hr ho
    | frame fr => rfl
    | err k => rfl
  unfold resultOf
  rw [List.find?_append, List.find?_eq_none.2 (fun x hx => by simp [h x hx, Result.isNone]), Option.none_or,
    List.find?, hn]

end Sys2Proof.Machine
end

