-- ==== Sys2Proof/Laws/Decode.lean ====
section
/-! SUPPORT. When a frame's ten bytes fit a FRAME80 row, byte by byte; the two inbound rows on a frame with the fixed
markers; when a key fits an RXEVT row. -/

namespace Sys2Proof

open Machine

theorem wireByte_and (F G : FrameWord) (k : Fin 10) : wireByte (F &&& G) k = wireByte F k &&& wireByte G k := by
  simp [wireByte, BitVec.extractLsb'_and]

/-- Two frame words are equal exactly when their ten bytes are. -/
theorem frameWord_ext {F G : FrameWord} : F = G ↔ wireBytes F = wireBytes G := by
  constructor
  · rintro rfl; rfl
  · intro h
    rw [← wireWord_wireBytes F, h, wireWord_wireBytes]

/-- A frame fits a row exactly when each of its ten bytes fits that byte of the row. -/
theorem fits_bytewise (d : Slots Byte) (m p : FrameWord) :
    (wireWord d &&& m == p) =
      ((d.start &&& wireByte m 0 == wireByte p 0) && (d.ver &&& wireByte m 1 == wireByte p 1) &&
       (d.len &&& wireByte m 2 == wireByte p 2) && (d.cmd &&& wireByte m 3 == wireByte p 3) &&
       (d.fb &&& wireByte m 4 == wireByte p 4) && (d.pm &&& wireByte m 5 == wireByte p 5) &&
       (d.pl &&& wireByte m 6 == wireByte p 6) && (d.cm &&& wireByte m 7 == wireByte p 7) &&
       (d.cl &&& wireByte m 8 == wireByte p 8) && (d.fin &&& wireByte m 9 == wireByte p 9)) := by
  rw [Bool.eq_iff_iff]
  simp only [beq_iff_eq, Bool.and_eq_true, frameWord_ext, wireBytes, wireByte_and, wireByte_wireWord, Slots.mk.injEq,
    and_assoc]
  rfl

/-- The inbound rows on a frame with the fixed markers: the peer-error row for command `40`, good-frame for the others. -/
theorem decodeInbound_frameAround (cmd fb : Byte) (param ck : Half) :
    decodeInbound (wireWord (frameAround cmd fb param ck)) =
      .ok (if cmd = Config.peerErrorCmd then .peerErrorFrame fb param ck else .goodFrame cmd fb param ck) := by
  have hg : (wireWord (frameAround cmd fb param ck) &&& 0xFFFFFF000000000000FF#80 == 0x7EFF06000000000000EF#80) = true := by
    rw [fits_bytewise]
    have z (x y : Byte) (h : y = 0#8) : (x &&& y == (0#8 : Byte)) = true := by subst h; simp
    have e (k : Fin 10) (hk : wireByte 0x7EFF06000000000000EF#80 k = 0#8) (x y : Byte) (h : y = 0#8) :
        (x &&& y == wireByte 0x7EFF06000000000000EF#80 k) = true := by rw [hk]; exact z x y h
    rw [e 3 (by decide) _ _ (by decide), e 4 (by decide) _ _ (by decide), e 5 (by decide) _ _ (by decide),
      e 6 (by decide) _ _ (by decide), e 7 (by decide) _ _ (by decide), e 8 (by decide) _ _ (by decide)]
    simp only [frameAround, Config.startMarker, Config.version, Config.length, Config.endMarker]
    decide
  have hp : (wireWord (frameAround cmd fb param ck) &&& 0xFFFFFFFF0000000000FF#80 == 0x7EFF06400000000000EF#80) =
      (cmd == 0x40#8) := by
    rw [fits_bytewise]
    have z (x y : Byte) (h : y = 0#8) : (x &&& y == (0#8 : Byte)) = true := by subst h; simp
    have e (k : Fin 10) (hk : wireByte 0x7EFF06400000000000EF#80 k = 0#8) (x y : Byte) (h : y = 0#8) :
        (x &&& y == wireByte 0x7EFF06400000000000EF#80 k) = true := by rw [hk]; exact z x y h
    rw [e 4 (by decide) _ _ (by decide), e 5 (by decide) _ _ (by decide),
      e 6 (by decide) _ _ (by decide), e 7 (by decide) _ _ (by decide), e 8 (by decide) _ _ (by decide)]
    have hc : (frameAround cmd fb param ck).cmd &&& wireByte 0xFFFFFFFF0000000000FF#80 3 = cmd := by
      have : wireByte 0xFFFFFFFF0000000000FF#80 3 = BitVec.allOnes 8 := by decide
      rw [this]; exact BitVec.and_allOnes
    have hv : wireByte 0x7EFF06400000000000EF#80 3 = 0x40#8 := by decide
    rw [hc, hv]
    simp only [frameAround, Config.startMarker, Config.version, Config.length, Config.endMarker]
    cases h : (cmd == 0x40#8) <;> decide
  have hb : wireBytes (wireWord (frameAround cmd fb param ck)) = frameAround cmd fb param ck := wireBytes_wireWord _
  unfold decodeInbound firstRow inboundRows
  generalize wireWord (frameAround cmd fb param ck) = F at hg hp hb
  by_cases hc : cmd = 0x40#8
  · simp [List.find?, hp, hb, hc, Config.peerErrorCmd, frameAround]
  · have h1 : (cmd == 0x40#8) = false := by simp [hc]
    simp only [List.find?, hp, h1, hg, Option.map_some, hb, if_neg (show cmd ≠ Config.peerErrorCmd from hc), frameAround,
      half_hi_lo]

/-- A key fits a row of the RXEVT table exactly when its state fits the row's state and its byte the row's byte (R113). -/
theorem key_fits (m p : RxKey) (r : RxState) (b : Byte) : (rxKey r b &&& m == p) =
    ((r.code &&& keyState m == keyState p) && (b &&& keyByte m == keyByte p)) := by
  have e (k k' : RxKey) : k = k' ↔ keyState k = keyState k' ∧ keyByte k = keyByte k' := by
    constructor
    · rintro rfl; exact ⟨rfl, rfl⟩
    · rintro ⟨h1, h2⟩
      have a := congrArg BitVec.toNat h1
      have b := congrArg BitVec.toNat h2
      simp only [keyState, keyByte, BitVec.extractLsb'_toNat, Nat.shiftRight_eq_div_pow] at a b
      apply BitVec.eq_of_toNat_eq
      have := k.isLt
      have := k'.isLt
      omega
  have hs : keyState (rxKey r b &&& m) = r.code &&& keyState m := by
    rw [← keyState_rxKey r b]; simp [keyState, BitVec.extractLsb'_and]
  have hb : keyByte (rxKey r b &&& m) = b &&& keyByte m := by
    conv_rhs => rw [← keyByte_rxKey r b]
    simp [keyByte, BitVec.extractLsb'_and]
  rw [Bool.eq_iff_iff]
  simp only [beq_iff_eq, Bool.and_eq_true, e, hs, hb]

end Sys2Proof
end

