-- ==== Sys2Proof/Laws/PerInstr.lean ====
section
/-! SUPPORT. The per-instruction family Carried: what the clamps and the ignored operands of R101, R102 and R156 leave is
left alone by them, and is still well-formed. -/

namespace Sys2Proof.Machine

theorem umin_idem {n : Nat} (x y : BitVec n) : umin (umin x y) y = umin x y := by
  apply BitVec.eq_of_toNat_eq
  simp only [umin_toNat]
  omega

theorem trackParam_idem (a : Half) : trackParam (trackParam a) = trackParam a := umin_idem a _

theorem volumeParam_idem (a : Half) : volumeParam (volumeParam a) = volumeParam a := umin_idem a _

theorem sourceParam_idem (a : Half) : sourceParam (sourceParam a) = sourceParam a := by
  by_cases h : a = 1#16 ∨ a = 2#16 ∨ a = 3#16 ∨ a = 4#16
  · have e : sourceParam a = a := if_pos h
    rw [e, e]
  · have e : sourceParam a = Config.sourceDefault := if_neg h
    rw [e]; decide

theorem folderNumber_idem (a : Half) : folderNumber (folderNumber a) = folderNumber a := by
  apply BitVec.eq_of_toNat_eq
  simp only [folderNumber, clamp_toNat, Config.folderMin, Config.folderMax, BitVec.toNat_ofNat]
  omega

theorem folderTrack_idem (b : Byte) : folderTrack (folderTrack b) = folderTrack b := by
  apply BitVec.eq_of_toNat_eq
  simp only [folderTrack, umax_toNat]
  omega

end Sys2Proof.Machine

namespace Sys2Proof.Laws

open Sys2Proof.Machine

/-- The operands as the frame carries them are carried as they are, and a well-formed instruction stays well-formed. -/
def Carried.Statement (i : Instr) : Prop := i.carried.carried = i.carried ∧ (i.WellFormed → i.carried.WellFormed)

theorem Carried.playNext (a : Half) (b : Byte) : Carried.Statement (.playNext a b) := ⟨rfl, id⟩
theorem Carried.playPrevious (a : Half) (b : Byte) : Carried.Statement (.playPrevious a b) := ⟨rfl, id⟩
theorem Carried.playTrack (a : Half) (b : Byte) : Carried.Statement (.playTrack a b) :=
  ⟨by simp only [Instr.carried, trackParam_idem], id⟩
theorem Carried.incrementVolume (a : Half) (b : Byte) : Carried.Statement (.incrementVolume a b) := ⟨rfl, id⟩
theorem Carried.decrementVolume (a : Half) (b : Byte) : Carried.Statement (.decrementVolume a b) := ⟨rfl, id⟩
theorem Carried.setVolume (a : Half) (b : Byte) : Carried.Statement (.setVolume a b) :=
  ⟨by simp only [Instr.carried, volumeParam_idem], id⟩
theorem Carried.setPlaybackSource (a : Half) (b : Byte) : Carried.Statement (.setPlaybackSource a b) :=
  ⟨by simp only [Instr.carried, sourceParam_idem], id⟩
theorem Carried.enterStandby (a : Half) (b : Byte) : Carried.Statement (.enterStandby a b) := ⟨rfl, id⟩
theorem Carried.enterNormal (a : Half) (b : Byte) : Carried.Statement (.enterNormal a b) := ⟨rfl, id⟩
theorem Carried.factoryReset (a : Half) (b : Byte) : Carried.Statement (.factoryReset a b) := ⟨rfl, id⟩
theorem Carried.pause (a : Half) (b : Byte) : Carried.Statement (.pause a b) := ⟨rfl, id⟩
theorem Carried.playFolderTrack (a : Half) (b : Byte) : Carried.Statement (.playFolderTrack a b) :=
  ⟨by simp only [Instr.carried, folderNumber_idem, folderTrack_idem], id⟩
theorem Carried.peerErrorFrame (fb : Byte) (param ck : Half) : Carried.Statement (.peerErrorFrame fb param ck) :=
  ⟨rfl, id⟩
theorem Carried.goodFrame (cmd fb : Byte) (param ck : Half) : Carried.Statement (.goodFrame cmd fb param ck) :=
  ⟨rfl, id⟩
theorem Carried.rxStart : Carried.Statement .rxStart := ⟨rfl, id⟩
theorem Carried.rxDiscard (b : Byte) : Carried.Statement (.rxDiscard b) := ⟨rfl, id⟩
theorem Carried.rxVersionOk : Carried.Statement .rxVersionOk := ⟨rfl, id⟩
theorem Carried.rxVersionBad (b : Byte) : Carried.Statement (.rxVersionBad b) := ⟨rfl, id⟩
theorem Carried.rxLengthOk : Carried.Statement .rxLengthOk := ⟨rfl, id⟩
theorem Carried.rxLengthBad (b : Byte) : Carried.Statement (.rxLengthBad b) := ⟨rfl, id⟩
theorem Carried.rxCommand (b : Byte) : Carried.Statement (.rxCommand b) := ⟨rfl, id⟩
theorem Carried.rxFeedback (b : Byte) : Carried.Statement (.rxFeedback b) := ⟨rfl, id⟩
theorem Carried.rxParamMsb (b : Byte) : Carried.Statement (.rxParamMsb b) := ⟨rfl, id⟩
theorem Carried.rxParamLsb (b : Byte) : Carried.Statement (.rxParamLsb b) := ⟨rfl, id⟩
theorem Carried.rxChecksumMsb (b : Byte) : Carried.Statement (.rxChecksumMsb b) := ⟨rfl, id⟩
theorem Carried.rxChecksumLsb (b : Byte) : Carried.Statement (.rxChecksumLsb b) := ⟨rfl, id⟩
theorem Carried.rxEndOk : Carried.Statement .rxEndOk := ⟨rfl, id⟩
theorem Carried.rxEndBad (b : Byte) : Carried.Statement (.rxEndBad b) := ⟨rfl, id⟩
theorem Carried.rxIdle (expired : Bool) : Carried.Statement (.rxIdle expired) := ⟨rfl, id⟩
theorem Carried.rxLoad (d : Slots Byte) : Carried.Statement (.rxLoad d) := ⟨rfl, id⟩
theorem Carried.rxAbort : Carried.Statement .rxAbort := ⟨rfl, id⟩
theorem Carried.txSend : Carried.Statement .txSend := ⟨rfl, id⟩
theorem Carried.getFrameBytes : Carried.Statement .getFrameBytes := ⟨rfl, id⟩
theorem Carried.getFrameRecord : Carried.Statement .getFrameRecord := ⟨rfl, id⟩
theorem Carried.receiveFrame : Carried.Statement .receiveFrame := ⟨rfl, id⟩
theorem Carried.reset : Carried.Statement .reset := ⟨rfl, id⟩
theorem Carried.chk (v l c f pm pl : Byte) : Carried.Statement (.chk v l c f pm pl) := ⟨rfl, id⟩
theorem Carried.encRefused (op : Byte) (a : Half) (b : Byte) : Carried.Statement (.encRefused op a b) := ⟨rfl, id⟩

end Sys2Proof.Laws
end

