-- ==== Sys2Proof/Tests/Slice0.lean ====
section
/-! SUPPORT. Tests. Expected words and results are the spec's own (95_test_vectors.md, the examples of the rules), and for
each statement with hypotheses a state and operands that meet them. -/

namespace Sys2Proof.Tests

open Sys2Proof.Machine

/-! ### Helpers -/

/-- A state with nothing going on. -/
def idle (feedback : Bool) : State :=
  { out := resetOut, acc := emptyAcc, rxs := .awaitingStart, feedback := feedback, timeoutMs := 200, handover := [],
    tx := [], inputs := [], outs := [], tick := 0 }

/-- The frame of 95_test_vectors.md S6, corrected. -/
def good : Slots Byte := ⟨0x7E#8, 0xFF#8, 0x06#8, 0x03#8, 0x01#8, 0x00#8, 0x05#8, 0xFE#8, 0xF2#8, 0xEF#8⟩

/-- A receiver in state `r` that has taken the first bytes of that frame. -/
def at' (r : RxState) : State := { idle true with rxs := r, acc := firstSlots r.code.toNat good }

/-- The state after an instruction. -/
def next (i : Instr) (s : State) : Option State :=
  match exec i s with
  | .next t => some t
  | .fault _ => none
  | .refused _ => none

/-- The ten bytes of `OUT` after an instruction. -/
def outAfter (feedback : Bool) (i : Instr) : Option (List Byte) := (next i (idle feedback)).map (fun t => wireOrder t.outBytes)

/-- `RXS` and the outputs after an instruction. -/
def rxAfter (i : Instr) (s : State) : Option (RxState × List EventOut) := (next i s).map (fun t => (t.rxs, t.outs))

/-! ### WellFormed refuses an ill-formed term for each of its checks -/

theorem test_wf_discard : (Instr.rxDiscard 0x7E#8).wellFormed = false := by decide
theorem test_wf_versionBad : (Instr.rxVersionBad 0xFF#8).wellFormed = false := by decide
theorem test_wf_lengthBad : (Instr.rxLengthBad 0x06#8).wellFormed = false := by decide
theorem test_wf_endBad : (Instr.rxEndBad 0xEF#8).wellFormed = false := by decide
theorem test_wf_peer_checksum : (Instr.peerErrorFrame 0x00#8 0x0006#16 0xFEB6#16).wellFormed = false := by decide
theorem test_wf_good_checksum : (Instr.goodFrame 0x03#8 0x01#8 0x0005#16 0xFFFB#16).wellFormed = false := by decide
theorem test_wf_good_command : (Instr.goodFrame 0x40#8 0x00#8 0x0006#16 0xFEB5#16).wellFormed = false := by decide
theorem test_wf_refused_listed : (Instr.encRefused 0x0F#8 0#16 0#8).wellFormed = false := by decide
theorem test_wf_accepts : (Instr.goodFrame 0x03#8 0x01#8 0x0005#16 0xFEF2#16).wellFormed = true := by decide

/-! ### Decoding: words written out from the encodings -/

/-- R104 to R109's request numbers. -/
theorem test_decode_requests_low :
    decode (.request 0x01#8 1#16 2#8) = .ok (.playNext 1#16 2#8) ∧
    decode (.request 0x02#8 1#16 2#8) = .ok (.playPrevious 1#16 2#8) ∧
    decode (.request 0x03#8 3000#16 2#8) = .ok (.playTrack 3000#16 2#8) ∧
    decode (.request 0x04#8 1#16 2#8) = .ok (.incrementVolume 1#16 2#8) ∧
    decode (.request 0x05#8 1#16 2#8) = .ok (.decrementVolume 1#16 2#8) ∧
    decode (.request 0x06#8 300#16 2#8) = .ok (.setVolume 300#16 2#8) := by decide

theorem test_decode_requests_high :
    decode (.request 0x09#8 9#16 2#8) = .ok (.setPlaybackSource 9#16 2#8) ∧
    decode (.request 0x0A#8 1#16 2#8) = .ok (.enterStandby 1#16 2#8) ∧
    decode (.request 0x0B#8 1#16 2#8) = .ok (.enterNormal 1#16 2#8) ∧
    decode (.request 0x0C#8 1#16 2#8) = .ok (.factoryReset 1#16 2#8) ∧
    decode (.request 0x0E#8 1#16 2#8) = .ok (.pause 1#16 2#8) ∧
    decode (.request 0x0F#8 355#16 7#8) = .ok (.playFolderTrack 355#16 7#8) := by decide

/-- V-E43, V-E44. -/
theorem test_decode_requests_unlisted :
    [0x00#8, 0x07#8, 0x08#8, 0x0D#8, 0x10#8, 0x40#8, 0xFF#8].all
      (fun op => decodeRequest op 1#16 0#8 == .encRefused op 1#16 0#8) = true := by decide

/-- The frames of V-E1 to V-E11, bit by bit as the table's patterns lay them out. -/
theorem test_decode_outbound_low :
    decodeTableWord 80 0x7EFF0601000000FEFAEF = some (.playNext 0#16 0#8) ∧
    decodeTableWord 80 0x7EFF0602010000FEF8EF = some (.playPrevious 0#16 0#8) ∧
    decodeTableWord 80 0x7EFF0603000BB7FE36EF = some (.playTrack 2999#16 0#8) ∧
    decodeTableWord 80 0x7EFF0604000000FEF7EF = some (.incrementVolume 0#16 0#8) ∧
    decodeTableWord 80 0x7EFF0605010000FEF5EF = some (.decrementVolume 0#16 0#8) ∧
    decodeTableWord 80 0x7EFF060600001EFED7EF = some (.setVolume 30#16 0#8) := by decide

theorem test_decode_outbound_high :
    decodeTableWord 80 0x7EFF0609000004FEEEEF = some (.setPlaybackSource 4#16 0#8) ∧
    decodeTableWord 80 0x7EFF060A000000FEF1EF = some (.enterStandby 0#16 0#8) ∧
    decodeTableWord 80 0x7EFF060B010000FEEFEF = some (.enterNormal 0#16 0#8) ∧
    decodeTableWord 80 0x7EFF060C000000FEEFEF = some (.factoryReset 0#16 0#8) ∧
    decodeTableWord 80 0x7EFF060E000000FEEDEF = some (.pause 0#16 0#8) ∧
    decodeTableWord 80 0x7EFF060F0063FFFD8AEF = some (.playFolderTrack 99#16 255#8) := by decide

/-- P6, V-R8, and the word of a table row with every open bit 0. -/
theorem test_decode_inbound :
    decodeTableWord 80 0x7EFF0640000006FEB5EF = some (.peerErrorFrame 0x00#8 0x0006#16 0xFEB5#16) ∧
    decodeTableWord 80 0x7EFF06415A1234FE1AEF = some (.goodFrame 0x41#8 0x5A#8 0x1234#16 0xFE1A#16) ∧
    decodeTableWord 80 0x7EFF06000000000000EF = some (.goodFrame 0x00#8 0x00#8 0#16 0#16) ∧
    decodeTableWord 80 0x7EFF07000000000000EF = none := by decide

/-- The keys of program P1 and of the error rows. -/
theorem test_decode_keys_low :
    decodeTableWord 16 0x07E = some .rxStart ∧ decodeTableWord 16 0x055 = some (.rxDiscard 0x55#8) ∧
    decodeTableWord 16 0x1FF = some .rxVersionOk ∧ decodeTableWord 16 0x17E = some (.rxVersionBad 0x7E#8) ∧
    decodeTableWord 16 0x206 = some .rxLengthOk ∧ decodeTableWord 16 0x207 = some (.rxLengthBad 0x07#8) ∧
    decodeTableWord 16 0x303 = some (.rxCommand 0x03#8) := by decide

theorem test_decode_keys_high :
    decodeTableWord 16 0x401 = some (.rxFeedback 0x01#8) ∧ decodeTableWord 16 0x500 = some (.rxParamMsb 0x00#8) ∧
    decodeTableWord 16 0x605 = some (.rxParamLsb 0x05#8) ∧ decodeTableWord 16 0x7FE = some (.rxChecksumMsb 0xFE#8) ∧
    decodeTableWord 16 0x8F2 = some (.rxChecksumLsb 0xF2#8) ∧ decodeTableWord 16 0x9EF = some .rxEndOk ∧
    decodeTableWord 16 0x900 = some (.rxEndBad 0x00#8) ∧ decodeTableWord 16 0xA7E = none := by decide

/-- The events without an encoding. -/
theorem test_decode_events :
    decodeEvent .awaitingStart (.rxIdle true) = .rxIdle true ∧ decodeEvent .awaitingStart (.rxLoad good) = .rxLoad good ∧
    decodeEvent .awaitingStart .rxAbort = .rxAbort ∧ decodeEvent .awaitingStart .send = .txSend ∧
    decodeEvent .awaitingStart .getFrameBytes = .getFrameBytes ∧
    decodeEvent .awaitingStart .getFrameRecord = .getFrameRecord ∧
    decodeEvent .awaitingStart .receiveFrame = .receiveFrame ∧ decodeEvent .awaitingStart .reset = .reset ∧
    decodeEvent .awaitingStart (.chk 1#8 2#8 3#8 4#8 5#8 6#8) = .chk 1#8 2#8 3#8 4#8 5#8 6#8 := by decide

/-! ### The checksum engine: V-C4, V-C5, V-C10 -/

theorem test_chk_ends : chk 0#8 0#8 0#8 0#8 0#8 0#8 = 0#16 ∧
    chk 0xFF#8 0xFF#8 0xFF#8 0xFF#8 0xFF#8 0xFF#8 = 0xFA06#16 := by decide
theorem test_chk_call :
    rxAfter (.chk 0xFF#8 0x06#8 0x0F#8 0x00#8 0x63#8 0xFF#8) (idle false) =
      some (.awaitingStart, [{ checksum := some 0xFD8A#16 }]) := by decide

/-! ### The encoder: V-E vectors -/

theorem test_playNext : outAfter false (.playNext 1234#16 56#8) =
    some [0x7E#8, 0xFF#8, 0x06#8, 0x01#8, 0x00#8, 0x00#8, 0x00#8, 0xFE#8, 0xFA#8, 0xEF#8] := by decide
theorem test_playPrevious : outAfter true (.playPrevious 0#16 0#8) =
    some [0x7E#8, 0xFF#8, 0x06#8, 0x02#8, 0x01#8, 0x00#8, 0x00#8, 0xFE#8, 0xF8#8, 0xEF#8] := by decide
theorem test_playTrack_msb : outAfter true (.playTrack 256#16 0#8) =
    some [0x7E#8, 0xFF#8, 0x06#8, 0x03#8, 0x01#8, 0x01#8, 0x00#8, 0xFE#8, 0xF6#8, 0xEF#8] := by decide
theorem test_playTrack_clamped : outAfter false (.playTrack 3000#16 200#8) =
    some [0x7E#8, 0xFF#8, 0x06#8, 0x03#8, 0x00#8, 0x0B#8, 0xB7#8, 0xFE#8, 0x36#8, 0xEF#8] := by decide
theorem test_incrementVolume : outAfter true (.incrementVolume 0#16 0#8) =
    some [0x7E#8, 0xFF#8, 0x06#8, 0x04#8, 0x01#8, 0x00#8, 0x00#8, 0xFE#8, 0xF6#8, 0xEF#8] := by decide
theorem test_decrementVolume : outAfter false (.decrementVolume 7#16 7#8) =
    some [0x7E#8, 0xFF#8, 0x06#8, 0x05#8, 0x00#8, 0x00#8, 0x00#8, 0xFE#8, 0xF6#8, 0xEF#8] := by decide
theorem test_setVolume_kept : outAfter true (.setVolume 29#16 0#8) =
    some [0x7E#8, 0xFF#8, 0x06#8, 0x06#8, 0x01#8, 0x00#8, 0x1D#8, 0xFE#8, 0xD7#8, 0xEF#8] := by decide
theorem test_setVolume_16bits : outAfter false (.setVolume 256#16 0#8) =
    some [0x7E#8, 0xFF#8, 0x06#8, 0x06#8, 0x00#8, 0x00#8, 0x1E#8, 0xFE#8, 0xD7#8, 0xEF#8] := by decide
theorem test_setPlaybackSource_kept : outAfter true (.setPlaybackSource 4#16 0#8) =
    some [0x7E#8, 0xFF#8, 0x06#8, 0x09#8, 0x01#8, 0x00#8, 0x04#8, 0xFE#8, 0xED#8, 0xEF#8] := by decide
theorem test_setPlaybackSource_replaced : outAfter false (.setPlaybackSource 258#16 0#8) =
    some [0x7E#8, 0xFF#8, 0x06#8, 0x09#8, 0x00#8, 0x00#8, 0x02#8, 0xFE#8, 0xF0#8, 0xEF#8] := by decide
theorem test_enterStandby : outAfter false (.enterStandby 0#16 0#8) =
    some [0x7E#8, 0xFF#8, 0x06#8, 0x0A#8, 0x00#8, 0x00#8, 0x00#8, 0xFE#8, 0xF1#8, 0xEF#8] := by decide
theorem test_enterNormal : outAfter true (.enterNormal 0#16 0#8) =
    some [0x7E#8, 0xFF#8, 0x06#8, 0x0B#8, 0x01#8, 0x00#8, 0x00#8, 0xFE#8, 0xEF#8, 0xEF#8] := by decide
theorem test_factoryReset : outAfter true (.factoryReset 0#16 0#8) =
    some [0x7E#8, 0xFF#8, 0x06#8, 0x0C#8, 0x01#8, 0x00#8, 0x00#8, 0xFE#8, 0xEE#8, 0xEF#8] := by decide
theorem test_pause : outAfter false (.pause 5#16 5#8) =
    some [0x7E#8, 0xFF#8, 0x06#8, 0x0E#8, 0x00#8, 0x00#8, 0x00#8, 0xFE#8, 0xED#8, 0xEF#8] := by decide
theorem test_playFolderTrack_folder : outAfter true (.playFolderTrack 256#16 9#8) =
    some [0x7E#8, 0xFF#8, 0x06#8, 0x0F#8, 0x01#8, 0x63#8, 0x09#8, 0xFE#8, 0x7F#8, 0xEF#8] := by decide
theorem test_playFolderTrack_floors : outAfter false (.playFolderTrack 0#16 0#8) =
    some [0x7E#8, 0xFF#8, 0x06#8, 0x0F#8, 0x00#8, 0x01#8, 0x01#8, 0xFE#8, 0xEA#8, 0xEF#8] := by decide
theorem test_encRefused :
    next (.encRefused 0x07#8 1#16 0#8) (idle true) = some { idle true with outs := [{ encRefused := true }] } := by decide

/-! ### The receiver: V-R vectors and the rules' examples -/

theorem test_rxStart : rxAfter .rxStart (idle true) = some (.awaitingVersion, [{ arm := some 200 }]) := by decide
theorem test_rxStart_overwrites_load : (next .rxStart { idle true with acc := firstSlots 10 good }).map (fun t => t.acc) =
    some (firstSlots 1 good) := by decide
theorem test_rxDiscard : (next (.rxDiscard 0x55#8) { idle true with acc := firstSlots 10 good }).map (fun t => t.acc) =
    some (firstSlots 10 good) := by decide
theorem test_rxVersionOk : next .rxVersionOk (at' .awaitingVersion) = some { at' .awaitingLength with outs := [{}] } := by
  decide
theorem test_rxVersionBad : rxAfter (.rxVersionBad 0x7E#8) (at' .awaitingVersion) =
    some (.awaitingStart, [{ result := .err .version }]) := by decide
theorem test_rxLengthOk : next .rxLengthOk (at' .awaitingLength) = some { at' .awaitingCommand with outs := [{}] } := by
  decide
theorem test_rxLengthBad : next (.rxLengthBad 0x07#8) (at' .awaitingLength) =
    some { idle true with outs := [{ result := .err .length }] } := by decide
theorem test_rxCommand : next (.rxCommand 0x03#8) (at' .awaitingCommand) =
    some { at' .awaitingFeedback with outs := [{}] } := by decide
theorem test_rxFeedback : next (.rxFeedback 0x01#8) (at' .awaitingFeedback) =
    some { at' .awaitingParamMsb with outs := [{}] } := by decide
theorem test_rxParamMsb : next (.rxParamMsb 0x00#8) (at' .awaitingParamMsb) =
    some { at' .awaitingParamLsb with outs := [{}] } := by decide
theorem test_rxParamLsb : next (.rxParamLsb 0x05#8) (at' .awaitingParamLsb) =
    some { at' .awaitingChecksumMsb with outs := [{}] } := by decide
theorem test_rxChecksumMsb : next (.rxChecksumMsb 0xFE#8) (at' .awaitingChecksumMsb) =
    some { at' .awaitingChecksumLsb with outs := [{}] } := by decide
theorem test_rxChecksumLsb : next (.rxChecksumLsb 0xF2#8) (at' .awaitingChecksumLsb) =
      some { at' .awaitingEnd with outs := [{}] } ∧
    next (.rxChecksumLsb 0xF3#8) (at' .awaitingChecksumLsb) =
      some { idle true with outs := [{ result := .err .checksum }] } := by decide
theorem test_rxEndOk : rxAfter .rxEndOk (at' .awaitingEnd) = some (.awaitingStart,
    [{ result := .frame ⟨0x7E#8, 0xFF#8, 0x06#8, 0x03#8, 0x01#8, 0x0005#16, 0xFEF2#16, 0xEF#8⟩,
       peer := some ⟨false, 0x0005#16⟩ }]) := by decide
theorem test_rxEndBad : next (.rxEndBad 0x7E#8) (at' .awaitingEnd) =
    some { idle true with outs := [{ result := .err .endMarker }] } := by decide
theorem test_rxIdle_expired : next (.rxIdle true) (at' .awaitingFeedback) =
    some { idle true with outs := [{ result := .err .timeout }] } := by decide
theorem test_rxIdle_ignored_in_start : next (.rxIdle true) { idle true with acc := firstSlots 10 good } =
    some { idle true with acc := firstSlots 10 good, outs := [{}] } := by decide
theorem test_peerErrorFrame : rxAfter (.peerErrorFrame 0x00#8 0x0006#16 0xFEB5#16) (idle true) = some (.awaitingStart,
    [{ arm := some 200 }, {}, {}, {}, {}, {}, {}, {}, {},
     { result := .frame ⟨0x7E#8, 0xFF#8, 0x06#8, 0x40#8, 0x00#8, 0x0006#16, 0xFEB5#16, 0xEF#8⟩,
       peer := some ⟨true, 0x0006#16⟩ }]) := by decide
theorem test_goodFrame : rxAfter (.goodFrame 0x41#8 0x5A#8 0x1234#16 0xFE1A#16) (idle true) = some (.awaitingStart,
    [{ arm := some 200 }, {}, {}, {}, {}, {}, {}, {}, {},
     { result := .frame ⟨0x7E#8, 0xFF#8, 0x06#8, 0x41#8, 0x5A#8, 0x1234#16, 0xFE1A#16, 0xEF#8⟩,
       peer := some ⟨false, 0x1234#16⟩ }]) := by decide
theorem test_goodFrame_after_stray_start : rxAfter (.goodFrame 0x0E#8 0x00#8 0#16 0xFEED#16) (at' .awaitingVersion) =
    some (.awaitingStart, [{ result := .err .version }, {}, {}, {}, {}, {}, {}, {}, {}, {}]) := by decide

/-! ### The surface, reset, the binding -/

theorem test_rxLoad : next (.rxLoad good) (at' .awaitingCommand) =
    some { idle true with acc := firstSlots 10 good, outs := [{}] } := by decide
theorem test_rxAbort : next .rxAbort (at' .awaitingLength) = some { idle true with outs := [{}] } := by decide
theorem test_txSend : (next .txSend { idle false with tx := [0x01#8] }).map (fun t => t.tx) =
    some [0x01#8, 0x7E#8, 0xFF#8, 0x06#8, 0x00#8, 0x00#8, 0x00#8, 0x00#8, 0xFE#8, 0xFB#8, 0xEF#8] := by decide
theorem test_getFrameBytes : rxAfter .getFrameBytes { idle true with out := ⟨0x03#8, 0x01#8, 0x00#8, 0x05#8, 0xFE#8, 0xF2#8⟩ } =
    some (.awaitingStart, [{ frameBytes := some good }]) := by decide
theorem test_getFrameRecord :
    rxAfter .getFrameRecord { idle true with out := ⟨0x03#8, 0x01#8, 0x00#8, 0x05#8, 0xFE#8, 0xF2#8⟩ } =
      some (.awaitingStart,
        [{ frameRecord := some ⟨0x7E#8, 0xFF#8, 0x06#8, 0x03#8, 0x01#8, 0x0005#16, 0xFEF2#16, 0xEF#8⟩ }]) := by decide
/-- The example of R214. -/
theorem test_receiveFrame_leaves_the_rest :
    (next .receiveFrame { idle true with
      inputs := ([0x55#8] ++ wireOrder good ++ [0xAA#8]).map (fun b => .event (.rxByte b)) }).map
      (fun t => (t.outs.length, t.inputs)) = some (11, [.event (.rxByte 0xAA#8)]) := by decide
theorem test_receiveFrame_lets_reset_pass :
    (next .receiveFrame { at' .awaitingEnd with inputs := [.event .reset] }).map (fun t => t.inputs) =
      some [.event .reset, .event .receiveFrame] := by decide
theorem test_reset : next .reset { at' .awaitingEnd with out := ⟨1#8, 1#8, 1#8, 1#8, 1#8, 1#8⟩, handover := [1#8] } =
    some { idle true with outs := [{}] } := by decide
theorem test_emptySlot_fault : exec (.rxChecksumLsb 0xF2#8) { idle true with rxs := .awaitingChecksumLsb } =
    .fault (.emptySlotRead 1) := by rfl
theorem test_selectorMismatch : exec .rxVersionOk (idle true) = .refused .selectorMismatch := by rfl

/-- A row's word stands where the next step takes it, as the first instruction after reset. -/
theorem test_fetch_key : step (State.reset.withFetchWord 16 0x206) =
    exec .rxLengthOk { State.reset with rxs := .awaitingLength, acc := firstSlots 2 (frameFor 0#8 0#8 0#16), tick := 1 } := by
  rfl
theorem test_fetch_outbound : step (State.reset.withFetchWord 80 0x7EFF06010000000000EF) =
    exec (.playNext 0#16 0#8) { State.reset with tick := 1 } := by rfl
theorem test_fetch_inbound : step (State.reset.withFetchWord 80 0x7EFF06400000000000EF) =
    exec (.peerErrorFrame 0#8 0#16 0#16) { State.reset with tick := 1 } := by rfl

/-! ### Witnesses: the hypotheses of each statement that has any, met together; each clause, at its boundaries -/

/-- The reset frame's `OUT` and a receiver in any state meet the invariant. -/
theorem test_inv (r : RxState) : Inv (at' r) := by
  refine ⟨outInv_reset _ rfl, ?_⟩
  cases r
  case awaitingStart => exact Or.inl rfl
  all_goals exact ⟨good, rfl, by decide, by decide, by decide, by decide⟩

theorem test_witness_ChkNegatesTheSum :
    (0x010E = (0xFF#8 : Byte).toNat + (0x06#8 : Byte).toNat + (0x03#8 : Byte).toNat + (0x01#8 : Byte).toNat +
      (0x00#8 : Byte).toNat + (0x05#8 : Byte).toNat) ∧
    (0 = (0#8 : Byte).toNat + (0#8 : Byte).toNat + (0#8 : Byte).toNat + (0#8 : Byte).toNat + (0#8 : Byte).toNat +
      (0#8 : Byte).toNat) := by decide
theorem test_witness_ChkRange : (at' .awaitingChecksumMsb).rxs = .awaitingChecksumMsb := by rfl
theorem test_witness_ChkDependsOnTheSum :
    (0xFF#8 : Byte).toNat + (0x06#8 : Byte).toNat + (0x03#8 : Byte).toNat + (0x01#8 : Byte).toNat + (0x00#8 : Byte).toNat +
      (0x05#8 : Byte).toNat =
    (0xFF#8 : Byte).toNat + (0x06#8 : Byte).toNat + (0x01#8 : Byte).toNat + (0x03#8 : Byte).toNat + (0x05#8 : Byte).toNat +
      (0x00#8 : Byte).toNat := by decide
theorem test_witness_NoOperandOperationsBuildTheirFrame :
    (Instr.pause, 0x0E#8) ∈ ([(Instr.playNext, 0x01#8), (Instr.playPrevious, 0x02#8), (Instr.incrementVolume, 0x04#8),
      (Instr.decrementVolume, 0x05#8), (Instr.enterStandby, 0x0A#8), (Instr.enterNormal, 0x0B#8),
      (Instr.factoryReset, 0x0C#8), (Instr.pause, 0x0E#8)] : List ((Half → Byte → Instr) × Byte)) := by
  simp only [List.mem_cons, or_true, true_or]
/-- Two states with different histories. -/
theorem test_witness_EncodingIgnoresHistory :
    (encodeOp (.playTrack 3000#16 0#8)).isSome ∧ (idle true).feedback = (at' .awaitingEnd).feedback ∧
    idle true ≠ at' .awaitingEnd := by decide
theorem test_witness_EncodedFrameIsTheTablesWord : (encodeOp (.playFolderTrack 0#16 0#8)).isSome := by decide
theorem test_witness_UnlistedRequestIsRefused :
    0x00#8 ∉ listedOps ∧ 0x07#8 ∉ listedOps ∧ 0x10#8 ∉ listedOps ∧ 0x01#8 ∈ listedOps ∧ 0x0F#8 ∈ listedOps := by decide
theorem test_witness_StartByte : (at' .awaitingStart).rxs = .awaitingStart ∧ (0x7D#8 : Byte) ≠ 0x7E#8 := by decide
theorem test_witness_VersionByte : (at' .awaitingVersion).rxs = .awaitingVersion ∧ (0x7E#8 : Byte) ≠ 0xFF#8 := by decide
theorem test_witness_LengthByte : (at' .awaitingLength).rxs = .awaitingLength ∧ (0x07#8 : Byte) ≠ 0x06#8 := by decide
theorem test_witness_DataBytesAreStored :
    (at' .awaitingCommand).rxs = .awaitingCommand ∧ (at' .awaitingFeedback).rxs = .awaitingFeedback ∧
    (at' .awaitingParamMsb).rxs = .awaitingParamMsb ∧ (at' .awaitingParamLsb).rxs = .awaitingParamLsb ∧
    (at' .awaitingChecksumMsb).rxs = .awaitingChecksumMsb := by decide
/-- The byte that matches, and the next one, which does not. -/
theorem test_witness_ChecksumIsJudgedAtItsLastByte :
    (at' .awaitingChecksumLsb).rxs = .awaitingChecksumLsb ∧ (at' .awaitingChecksumLsb).acc.ver = some 0xFF#8 ∧
    (at' .awaitingChecksumLsb).acc.len = some 0x06#8 ∧ (at' .awaitingChecksumLsb).acc.cmd = some 0x03#8 ∧
    (at' .awaitingChecksumLsb).acc.fb = some 0x01#8 ∧ (at' .awaitingChecksumLsb).acc.pm = some 0x00#8 ∧
    (at' .awaitingChecksumLsb).acc.pl = some 0x05#8 ∧ (at' .awaitingChecksumLsb).acc.cm = some 0xFE#8 ∧
    (0xFE#8 : Byte).toNat * 256 + (0xF2#8 : Byte).toNat =
      (chk 0xFF#8 0x06#8 0x03#8 0x01#8 0x00#8 0x05#8).toNat ∧
    (0xFE#8 : Byte).toNat * 256 + (0xF3#8 : Byte).toNat ≠
      (chk 0xFF#8 0x06#8 0x03#8 0x01#8 0x00#8 0x05#8).toNat := by decide
theorem test_witness_EndByteDeliversTheFrame :
    (at' .awaitingEnd).rxs = .awaitingEnd ∧ (at' .awaitingEnd).acc = firstSlots 9 good ∧ (0x7E#8 : Byte) ≠ 0xEF#8 := by
  decide
theorem test_witness_RxInstructionBelongsToItsState :
    encode .rxVersionOk = some (.rxEvent (rxKey .awaitingVersion 0xFF#8)) ∧ (idle true).rxs ≠ .awaitingVersion := by decide
/-- State 8 with only slot 7, or every slot, empty; state 9 with only slot 8, or every slot, empty. -/
theorem test_witness_EmptySlotReadFaults :
    slotAt ({ at' .awaitingChecksumMsb with rxs := .awaitingChecksumLsb } : State).acc 7 = none ∧
    slotAt ({ idle true with rxs := .awaitingChecksumLsb } : State).acc 1 = none ∧
    slotAt ({ at' .awaitingChecksumLsb with rxs := .awaitingEnd } : State).acc 8 = none ∧
    slotAt ({ idle true with rxs := .awaitingEnd } : State).acc 0 = none := by decide
/-- Every state; and in state 8 the byte that fits, and the next one, which does not. -/
theorem test_witness_ByteEventMovesState :
    (∀ r, AccInv (at' r)) ∧ ChecksumFits (at' .awaitingChecksumLsb) 0xF2#8 ∧
      ¬ ChecksumFits (at' .awaitingChecksumLsb) 0xF3#8 :=
  ⟨fun r => (test_inv r).2, ⟨0xFF#8, 0x06#8, 0x03#8, 0x01#8, 0x00#8, 0x05#8, 0xFE#8, by decide⟩, by
    rintro ⟨v, l, c, f, pm, pl, m, h1, h2, h3, h4, h5, h6, h7, h8⟩
    cases h1; cases h2; cases h3; cases h4; cases h5; cases h6; cases h7
    revert h8; decide⟩
/-- A byte, a frame, and a timeout that report. -/
theorem test_witness_ReportRestartsAndChangesNothingElse :
    (next (decodeEvent .awaitingVersion (.rxByte 0x7E#8)) (at' .awaitingVersion)).map (fun t => t.outs) =
      some [{ result := .err .version }] ∧
    (next (decodeEvent .awaitingEnd (.rxByte 0xEF#8)) (at' .awaitingEnd)).map (fun t => t.outs.length) = some 1 ∧
    (next (decodeEvent .awaitingEnd (.rxIdle true)) (at' .awaitingEnd)).map (fun t => t.outs) =
      some [{ result := .err .timeout }] ∧ rcvEvent (.rxByte 0x7E#8) = true ∧ rcvEvent (.rxIdle true) = true := by decide
theorem test_witness_GoodFrameIsAccepted :
    (idle true).rxs = .awaitingStart ∧
    0xFE1A#16 = chk 0xFF#8 0x06#8 0x41#8 0x5A#8 (hi 0x1234#16) (lo 0x1234#16) := by decide
theorem test_witness_PeerErrorFrameIsClassified :
    (idle true).rxs = .awaitingStart ∧
    0xFEB5#16 = chk 0xFF#8 0x06#8 0x40#8 0x00#8 (hi 0x0006#16) (lo 0x0006#16) := by decide
/-- The sequence that the source prints (S6), and a broken peer-error frame. -/
theorem test_witness_BadChecksumFrameIsReported :
    (idle true).rxs = .awaitingStart ∧
    0xFFFB#16 ≠ chk 0xFF#8 0x06#8 0x03#8 0x01#8 (hi 0x0005#16) (lo 0x0005#16) ∧
    0xFEB6#16 ≠ chk 0xFF#8 0x06#8 0x40#8 0x00#8 (hi 0x0006#16) (lo 0x0006#16) := by decide
theorem test_witness_InboundFrameCompletes : AccInv (at' .awaitingLength) := (test_inv _).2
/-- A good frame with polls before some of its bytes. -/
theorem test_witness_GoodFrameSurvivesIdlePolls :
    (idle true).rxs = .awaitingStart ∧ good.start = 0x7E#8 ∧ good.ver = 0xFF#8 ∧ good.len = 0x06#8 ∧
    half good.cm good.cl = expectedChecksum good ∧ good.fin = 0xEF#8 ∧
    (((wireOrder (⟨0, 2, 0, 0, 0, 0, 0, 0, 0, 1⟩ : Slots Nat)).zip (wireOrder good)).flatMap
      (fun p => List.replicate p.1 (Input.event (.rxIdle false)) ++ [.event (.rxByte p.2)])).length = 13 := by decide
theorem test_witness_EveryFrameResultIsGood :
    Inv (at' .awaitingEnd) ∧ (∃ t, step { at' .awaitingEnd with inputs := [.event (.rxByte 0xEF#8)] } = .next t ∧
      ∃ o ∈ t.outs, ∃ fr, o.result = .frame fr) :=
  ⟨test_inv _, _, rfl, _, List.mem_singleton.2 rfl, _, rfl⟩
theorem test_witness_AcceptedFramesAreTheChoices : (idle true).rxs = .awaitingStart ∧ good = frameFor 0x03#8 0x01#8 5#16 := by
  decide
theorem test_witness_EncodedFrameIsReceived :
    encodeOp (.playTrack 5#16 0#8) = some 0x03#8 ∧ (idle true).rxs = .awaitingStart ∧
    (next (.playTrack 5#16 0#8) (idle true)).isSome := by decide
/-- Program P2's noise, and none. -/
theorem test_witness_NoiseWithoutStartMarkerIsDiscarded :
    (idle true).rxs = .awaitingStart ∧ (∀ b ∈ [0x12#8, 0x34#8, 0x7D#8, 0x7F#8], b ≠ (0x7E#8 : Byte)) ∧
    (∀ b ∈ ([] : List Byte), b ≠ 0x7E#8) := by decide
/-- The frame of program P5. -/
theorem test_witness_StrayStartMarkerLosesTheFrame :
    (idle true).rxs = .awaitingStart ∧ (∀ b ∈ (wireOrder (frameFor 0x0E#8 0x00#8 0#16)).drop 1, b ≠ 0x7E#8) := by decide
theorem test_witness_ReceiveCallEndsAtFirstResult : AccInv { at' .awaitingEnd with inputs := [.event (.rxIdle true)] } :=
  (test_inv .awaitingEnd).2
theorem test_witness_ReceiveCallReturnsTheFrame :
    (idle true).rxs = .awaitingStart ∧ good.start = 0x7E#8 ∧ good.ver = 0xFF#8 ∧ good.len = 0x06#8 ∧
    half good.cm good.cl = expectedChecksum good ∧ good.fin = 0xEF#8 ∧
    ({ idle true with inputs := (wireOrder good).map (fun b => .event (.rxByte b)) } : State).inputs =
      (wireOrder good).map (fun b => .event (.rxByte b)) ++ [] := by decide
/-- A call that returns, and one that waits. -/
theorem test_witness_ReceiveCallIsItsEvents :
    (next .receiveFrame { at' .awaitingEnd with inputs := [.event (.rxIdle false), .event (.rxIdle true)] }).map
      (fun t => t.outs.length) = some 2 ∧
    (next .receiveFrame { at' .awaitingEnd with inputs := [.event (.rxIdle false), .event .reset] }).map
      (fun t => t.outs.length) = some 1 := by decide
theorem test_witness_StepRunsTheDecodedInstruction :
    ({ idle true with inputs := [.event .send] } : State).inputs = .event .send :: [] ∧
    decodeInbound 0x7EFF06415A1234FE1AEF#80 = .ok (.goodFrame 0x41#8 0x5A#8 0x1234#16 0xFE1A#16) ∧
    decodeInbound 0x7EFF0640000006FEB5EF#80 = .ok (.peerErrorFrame 0x00#8 0x0006#16 0xFEB5#16) ∧
    (idle true).inputs = [] := by decide
theorem test_witness_StepKeepsTheInvariant :
    Inv (at' .awaitingFeedback) ∧
    (∃ t, step { at' .awaitingFeedback with inputs := [.event (.rxByte 0x01#8)] } = .next t) := ⟨test_inv _, _, rfl⟩
theorem test_witness_StepAlwaysAnswers : Inv (at' .awaitingEnd) := test_inv _
theorem test_witness_StrapsAndSentBytesStay : ∃ t, step { idle true with inputs := [.event .send] } = .next t := ⟨_, rfl⟩
theorem test_witness_AgentsKeepToTheirRegisters :
    (∃ t, exec (decodeEvent .awaitingStart (.enc 0x03#8 5#16 0#8)) (idle true) = .next t) ∧
    (∃ t, exec (decodeEvent .awaitingStart (.rxByte 0x7E#8)) (idle true) = .next t) ∧
    encoderEvent (.enc 0x03#8 5#16 0#8) = true ∧ rcvEvent (.rxByte 0x7E#8) = true := ⟨⟨_, rfl⟩, ⟨_, rfl⟩, rfl, rfl⟩
/-- A request and the byte that ends a frame complete in both orders. -/
theorem test_witness_AgentsCommute :
    encoderEvent (.enc 0x03#8 5#16 0#8) = true ∧ rcvEvent (.rxByte 0xEF#8) = true ∧
    (∃ s1 s2, exec (decodeEvent .awaitingEnd (.enc 0x03#8 5#16 0#8)) (at' .awaitingEnd) = .next s1 ∧
      exec (decodeEvent s1.rxs (.rxByte 0xEF#8)) s1 = .next s2) ∧
    ∃ t1 t2, exec (decodeEvent .awaitingEnd (.rxByte 0xEF#8)) (at' .awaitingEnd) = .next t1 ∧
      exec (decodeEvent t1.rxs (.enc 0x03#8 5#16 0#8)) t1 = .next t2 :=
  ⟨rfl, rfl, ⟨_, _, rfl, rfl⟩, _, _, rfl, rfl⟩
/-- Ports for each of the five clauses. -/
theorem test_witness_CycleArbitration :
    ({ rst := true } : InPorts).rst = true ∧ ({ rxAbort := true, rxLoad := true } : InPorts).rxAbort = true ∧
    ({ rxLoad := true, rxValid := true } : InPorts).rxAbort = false ∧
    ({ rxValid := true, tmrExpired := true } : InPorts).rxLoad = false ∧
    ({ tmrExpired := true } : InPorts).rxValid = false := by decide
/-- A cycle with a request, a send and a byte, and one with none of them. -/
theorem test_witness_CycleIsItsEvents :
    ∃ s1 s2 s3 s4 : State, (idle true).handover = [] ∧
      exec (decodeEvent .awaitingStart (receiverEvent { rxValid := true, rxData := 0x7E#8 })) (idle true) = .next s1 ∧
      exec (decodeRequest 0x03#8 5#16 0#8) s1 = .next s2 ∧
      exec (decodeEvent .awaitingStart (receiverEvent {})) (idle true) = .next s3 ∧
      (Host.Outcome.next { s3 with outs := [] } : Outcome) = .next s4 := ⟨_, _, _, _, rfl, rfl, rfl, rfl, rfl⟩
/-- A ready cycle with the last byte left and a byte received, and one that is not ready, with a request that waits. -/
theorem test_witness_BusyCycleHandsOverOneByte :
    (({ txReady := true, rxValid := true, rxData := 0x7E#8 } : InPorts).rst = false ∧
      ({ idle true with handover := [0xEF#8] } : State).handover = 0xEF#8 :: [] ∧
      ∃ s1, exec (decodeEvent .awaitingStart (receiverEvent { txReady := true, rxValid := true, rxData := 0x7E#8 }))
        { idle true with handover := [0xEF#8] } = .next s1) ∧
    (({ encValid := true, txSend := true } : InPorts).rst = false ∧
      ({ idle true with handover := [0x01#8, 0xEF#8] } : State).handover = 0x01#8 :: [0xEF#8] ∧
      ∃ s1, exec (decodeEvent .awaitingStart (receiverEvent { encValid := true, txSend := true }))
        { idle true with handover := [0x01#8, 0xEF#8] } = .next s1) :=
  ⟨⟨rfl, rfl, _, rfl⟩, rfl, rfl, _, rfl⟩
/-- Three cycles, the last of which hands over the last of two bytes; one more ready cycle would be too many. -/
theorem test_witness_HandoverDeliversTheFrame :
    Inv { idle true with handover := [0x01#8, 0x02#8] } ∧
    (∀ p ∈ [({ txReady := true } : InPorts), {}, { txReady := true }], p.rst = false) ∧
    (([({ txReady := true } : InPorts), {}, { txReady := true }].dropLast).filter (fun p => p.txReady)).length <
      [0x01#8, (0x02#8 : Byte)].length := ⟨⟨outInv_reset _ rfl, Or.inl rfl⟩, by decide, by decide⟩
/-- The slots at both ends; a byte being handed over; outputs with nothing, a frame, each error, an arm, a refusal. -/
theorem test_witness_PortsShowStateAndPulses :
    slotAt (at' .awaitingVersion).acc 0 = some 0x7E#8 ∧ slotAt (at' .awaitingEnd).acc 8 = some 0xF2#8 ∧
    slotAt (firstSlots 10 good) 9 = some 0xEF#8 ∧
    ({ idle true with handover := [0xEF#8] } : State).handover = 0xEF#8 :: [] ∧
    (∀ o ∈ ({ idle true with outs := [{}, { arm := some 200 }, { encRefused := true }] } : State).outs, o.result = .none) ∧
    (∀ r ∈ [Result.frame (recordOf good), .err .version, .err .length, .err .checksum, .err .endMarker, .err .timeout],
      ({ idle true with outs := [{}, { result := r }, {}] } : State).outs =
          [({} : EventOut)] ++ ({ result := r } : EventOut) :: [({} : EventOut)] ∧
      ∀ x ∈ [({} : EventOut)], x.result = .none) ∧
    (idle true).inputs = [] ∧ (∃ t, step (idle true) = .next t) :=
  ⟨rfl, rfl, rfl, rfl, by decide, fun _ _ => ⟨rfl, by decide⟩, rfl, _, rfl⟩
/-- A frame beside an unlisted request; a start marker during a hand-over; a timeout. -/
theorem test_witness_CyclePortsShowItsEvents :
    (∃ s1 t, exec (decodeEvent .awaitingEnd (receiverEvent { encValid := true, rxValid := true, rxData := 0xEF#8 }))
        (at' .awaitingEnd) = .next s1 ∧ s1.outs = [{ result := .frame (recordOf good), peer := some ⟨false, 5#16⟩ }] ∧
      cycle { encValid := true, rxValid := true, rxData := 0xEF#8 } (at' .awaitingEnd) = .next t) ∧
    (∃ s1 t, exec (decodeEvent .awaitingStart (receiverEvent { rxValid := true, rxData := 0x7E#8 }))
        { idle true with handover := [0xEF#8] } = .next s1 ∧ s1.outs = [{ arm := some 200 }] ∧
      cycle { rxValid := true, rxData := 0x7E#8 } { idle true with handover := [0xEF#8] } = .next t) ∧
    (∃ s1 t, exec (decodeEvent .awaitingEnd (receiverEvent { tmrExpired := true })) (at' .awaitingEnd) = .next s1 ∧
      s1.outs = [{ result := .err .timeout }] ∧ cycle { tmrExpired := true } (at' .awaitingEnd) = .next t) :=
  ⟨⟨_, _, rfl, rfl, rfl⟩, ⟨_, _, rfl, rfl, rfl⟩, _, _, rfl, rfl, rfl⟩
theorem test_witness_DecodeOfEncode :
    (Instr.goodFrame 0x41#8 0x5A#8 0x1234#16 0xFE1A#16).WellFormed ∧ (Instr.rxVersionBad 0x7E#8).WellFormed ∧
    (Instr.encRefused 0x07#8 1#16 0#8).WellFormed ∧ (encode (.goodFrame 0x41#8 0x5A#8 0x1234#16 0xFE1A#16)).isSome ∧
    (encode (.rxVersionBad 0x7E#8)).isSome ∧ (encode (.encRefused 0x07#8 1#16 0#8)).isSome := by decide
theorem test_witness_EncodeOfDecode :
    decode (.request 0x0F#8 2#16 3#8) = .ok (.playFolderTrack 2#16 3#8) ∧
    decode (.inbound 0x7EFF06415A1234FE1AEF#80) = .ok (.goodFrame 0x41#8 0x5A#8 0x1234#16 0xFE1A#16) ∧
    decode (.rxEvent 0x9EF#12) = .ok .rxEndOk := by decide
theorem test_witness_KeyTableIsTheByteEvent :
    10 ≤ (keyState 0xA00#12).toNat ∧ 10 ≤ (keyState 0xFFF#12).toNat := by decide

end Sys2Proof.Tests
end

section
/-! Taking the next input (spec 00_scope.md R8, R9): one rule for each shape of the environment's script, and the rule of
a line that is an inbound frame's row. -/

namespace Sys2Proof.Machine

/-- An inbound frame's row is one instruction (R9, notes/assumptions/11.md). -/
theorem runLine_of_decodeInbound {F : FrameWord} {i : Instr} (h : decodeInbound F = .ok i) (s : State) :
    runLine F s = exec i s := by
  simp only [runLine, h]

theorem step_of_no_input {s : State} (h : s.inputs = []) : step s = .next s.idleStep := by
  simp only [step, h]

theorem step_of_input {s : State} {x : Input} {rest : List Input} (h : s.inputs = x :: rest) :
    step s = runInput x (s.taking rest) := by
  simp only [step, h]

theorem step_of_event {s : State} {e : Event} {rest : List Input} (h : s.inputs = .event e :: rest) :
    step s = exec (decodeEvent s.rxs e) (s.taking rest) := by
  rw [step_of_input h, runInput, State.taking_rxs]

theorem step_of_inbound_line {s : State} {F : FrameWord} {i : Instr} {rest : List Input}
    (h : s.inputs = .line F :: rest) (hF : decodeInbound F = .ok i) : step s = exec i (s.taking rest) := by
  rw [step_of_input h, runInput, runLine_of_decodeInbound hF]

theorem step_of_cycle {s : State} {p : InPorts} {rest : List Input} (h : s.inputs = .cycle p :: rest) :
    step s = cycle p (s.taking rest) := by
  rw [step_of_input h, runInput]

end Sys2Proof.Machine

namespace Sys2Proof.Proofs

open Sys2Proof.Machine

/-- Settles O43: one rule per shape of the script. `State.taking` and `State.idleStep` are the two record updates that
the statement writes out. -/
theorem stepRunsTheDecodedInstruction : Obligations.StepRunsTheDecodedInstruction := by
  intro s
  refine ⟨?event, ?line, ?cycle, ?idle⟩
  case event => exact fun _ _ h => step_of_event h
  case line => exact fun _ _ _ h hF => step_of_inbound_line h hF
  case cycle => exact fun _ _ h => step_of_cycle h
  case idle => exact step_of_no_input

end Sys2Proof.Proofs
end

section
/-! What an encode operation leaves alone, and what each event of the encoder and the surface does: one equation for each
(spec 10_state.md R25, 41_encoder.md R140, 43_surface_ops.md). -/

namespace Sys2Proof.Machine

@[simp] theorem encodeCommon_acc (op : Byte) (p : Half) (s : State) : (encodeCommon op p s).acc = s.acc := rfl
@[simp] theorem encodeCommon_rxs (op : Byte) (p : Half) (s : State) : (encodeCommon op p s).rxs = s.rxs := rfl
@[simp] theorem encodeCommon_feedback (op : Byte) (p : Half) (s : State) :
    (encodeCommon op p s).feedback = s.feedback := rfl
@[simp] theorem encodeCommon_timeoutMs (op : Byte) (p : Half) (s : State) :
    (encodeCommon op p s).timeoutMs = s.timeoutMs := rfl
@[simp] theorem encodeCommon_handover (op : Byte) (p : Half) (s : State) :
    (encodeCommon op p s).handover = s.handover := rfl
@[simp] theorem encodeCommon_tx (op : Byte) (p : Half) (s : State) : (encodeCommon op p s).tx = s.tx := rfl
@[simp] theorem encodeCommon_inputs (op : Byte) (p : Half) (s : State) : (encodeCommon op p s).inputs = s.inputs := rfl
@[simp] theorem encodeCommon_outs (op : Byte) (p : Half) (s : State) : (encodeCommon op p s).outs = s.outs := rfl
@[simp] theorem encodeCommon_tick (op : Byte) (p : Half) (s : State) : (encodeCommon op p s).tick = s.tick := rfl

/-- Every slot of the empty accumulator is `EMPTY` (R26). -/
@[simp] theorem slotAt_emptyAcc (i : Fin 10) : slotAt emptyAcc i = none := by
  rw [← firstSlots_zero (wireBytes 0#80), slotAt_firstSlots, if_neg (Nat.not_lt_zero _)]

theorem exec_txSend (s : State) : exec .txSend s = .next (s.sendFrame.emit {}) := by rfl

theorem exec_getFrameBytes (s : State) :
    exec .getFrameBytes s = .next (s.emit { frameBytes := some s.outBytes }) := by rfl

theorem exec_getFrameRecord (s : State) :
    exec .getFrameRecord s = .next (s.emit { frameRecord := some (recordOf s.outBytes) }) := by rfl

theorem exec_reset (s : State) : exec .reset s = .next (s.resetCore.emit {}) := by rfl

theorem exec_chk (v l c f pm pl : Byte) (s : State) :
    exec (.chk v l c f pm pl) s = .next (s.emit { checksum := some (chk v l c f pm pl) }) := by rfl

theorem exec_receiveFrame (s : State) :
    exec .receiveFrame s = finish (receiveLoop (asPolls s.inputs) s) := by rfl

theorem exec_rxIdle (expired : Bool) (s : State) :
    exec (.rxIdle expired) s = .next ((rxIdleEvent expired s).1.emit (rxIdleEvent expired s).2) := by rfl

/-- A request with one of the twelve numbers is an encode operation with that number (R104, R140). -/
theorem exec_decodeRequest_listed {op : Byte} (h : op ∈ listedOps) (a : Half) (b : Byte) (s : State) :
    ∃ p, exec (decodeRequest op a b) s = .next ((encodeCommon op p s).emit {}) := by
  simp only [listedOps, List.mem_cons, List.not_mem_nil, or_false] at h
  rcases h with rfl | rfl | rfl | rfl | rfl | rfl | rfl | rfl | rfl | rfl | rfl | rfl <;> exact ⟨_, rfl⟩

/-- Any other request is the refused one (R107). -/
theorem decodeRequest_unlisted {op : Byte} (h : op ∉ listedOps) (a : Half) (b : Byte) :
    decodeRequest op a b = .encRefused op a b := by
  have number_ne (n : Nat) (hn : BitVec.ofNat 8 n ∈ listedOps) : op.toNat ≠ n := by
    rintro rfl
    rw [BitVec.ofNat_toNat, BitVec.setWidth_eq] at hn
    exact h hn
  unfold decodeRequest
  split
  case h_13 => rfl
  all_goals rename_i e; exact absurd e (number_ne _ (by decide))

/-- The refused request changes nothing and pulses `enc_refused` (R155). -/
theorem exec_decodeRequest_unlisted {op : Byte} (h : op ∉ listedOps) (a : Half) (b : Byte) (s : State) :
    exec (decodeRequest op a b) s = .next (s.emit { encRefused := true }) := by
  rw [decodeRequest_unlisted h]
  rfl

/-- One cycle of a hand-over, as one update: the oldest byte goes out when `tx_ready` is 1 (R44). -/
theorem State.handOver_cons {b : Byte} {left : List Byte} {s : State} (h : s.handover = b :: left) (ready : Bool) :
    s.handOver ready = { s with
      handover := if ready then left else b :: left
      tx := if ready then s.tx ++ [b] else s.tx } := by
  cases ready
  · rw [State.handOver_notReady, if_neg Bool.false_ne_true, if_neg Bool.false_ne_true, ← h]
  · exact State.handOver_ready s b left h

end Sys2Proof.Machine
end

section
/-! What every part of a step keeps (spec 10_state.md R24, R27, R34, R35, 20_memory.md R63). The relation is closed under
composition, so that each event, each part of a cycle and each step needs one argument. -/

namespace Sys2Proof.Machine

/-- From `s` to `t` the invariants of `OUT` and `ACC` are kept, the straps are as they were, and the transmit stream is
only appended to. -/
structure StepKeeps (s t : State) : Prop where
  outInv : OutInv s → OutInv t
  accInv : AccInv s → AccInv t
  feedback : t.feedback = s.feedback
  timeoutMs : t.timeoutMs = s.timeoutMs
  tx : ∃ sent, t.tx = s.tx ++ sent

theorem StepKeeps.trans {s t u : State} (h : StepKeeps s t) (k : StepKeeps t u) : StepKeeps s u where
  outInv := k.outInv ∘ h.outInv
  accInv := k.accInv ∘ h.accInv
  feedback := k.feedback.trans h.feedback
  timeoutMs := k.timeoutMs.trans h.timeoutMs
  tx := by
    obtain ⟨sent, hs⟩ := h.tx
    obtain ⟨sent', hs'⟩ := k.tx
    exact ⟨sent ++ sent', by rw [hs', hs, List.append_assoc]⟩

/-- What leaves `OUT` and the receiver's registers alone, with the straps, needs to say only what it sends. -/
theorem StepKeeps.of_registers_same {s t : State} (hout : t.out = s.out) (hacc : t.acc = s.acc) (hrxs : t.rxs = s.rxs)
    (hfb : t.feedback = s.feedback) (hms : t.timeoutMs = s.timeoutMs) (htx : ∃ sent, t.tx = s.tx ++ sent) :
    StepKeeps s t :=
  ⟨(outInv_congr hout hfb).2, (accInv_congr hrxs hacc).2, hfb, hms, htx⟩

/-- What changes neither a register, a strap nor the stream: outputs, inputs, the counter, the bytes held. -/
theorem StepKeeps.of_bookkeeping (s : State) (handover : List Byte) (inputs : List Input) (outs : List EventOut)
    (tick : Nat) :
    StepKeeps s { s with handover := handover, inputs := inputs, outs := outs, tick := tick } :=
  .of_registers_same rfl rfl rfl rfl rfl ⟨[], (List.append_nil _).symm⟩

/-- What changes nothing but the receiver's registers, the inputs and the outputs, and keeps the fill invariant. -/
theorem StepKeeps.of_receiver {s : State} {r : RxState} {a : Slots (Option Byte)} {inputs : List Input}
    {outs : List EventOut} (h : AccInv s → AccInv (s.setRx r a)) :
    StepKeeps s { s.setRx r a with inputs := inputs, outs := outs } :=
  ⟨(outInv_congr rfl rfl).2, h, rfl, rfl, [], (List.append_nil _).symm⟩

/-! ### Events of the encoder, reset, and what only answers -/

theorem stepKeeps_emit (s : State) (o : EventOut) : StepKeeps s (s.emit o) :=
  .of_bookkeeping s s.handover s.inputs [o] s.tick

theorem stepKeeps_encode (op : Byte) (p : Half) (s : State) : StepKeeps s ((encodeCommon op p s).emit {}) :=
  ⟨fun _ => outInv_encodeCommon op p s, (accInv_congr (encodeCommon_rxs op p s) (encodeCommon_acc op p s)).2,
    encodeCommon_feedback op p s, encodeCommon_timeoutMs op p s, [], by simp⟩

theorem stepKeeps_sendFrame (s : State) : StepKeeps s (s.sendFrame.emit {}) :=
  .of_registers_same rfl rfl rfl rfl rfl ⟨s.handover ++ wireOrder s.outBytes, List.append_assoc ..⟩

theorem stepKeeps_resetCore (s : State) : StepKeeps s (s.resetCore.emit {}) :=
  ⟨fun _ => outInv_reset _ rfl, fun _ => Or.inl rfl, rfl, rfl, [], (List.append_nil _).symm⟩

theorem stepKeeps_decodeRequest {op : Byte} {a : Half} {b : Byte} {s t : State}
    (h : exec (decodeRequest op a b) s = .next t) : StepKeeps s t := by
  by_cases hop : op ∈ listedOps
  · obtain ⟨p, hp⟩ := exec_decodeRequest_listed hop a b s
    cases hp.symm.trans h
    exact stepKeeps_encode op p s
  · cases (exec_decodeRequest_unlisted hop a b s).symm.trans h
    exact stepKeeps_emit s _

/-! ### Events of the receiver -/

theorem rxByteEvent_accInv {b : Byte} {s t : State} {o : EventOut} (h : rxByteEvent b s = .ok (t, o)) (hs : AccInv s) :
    AccInv t := by
  obtain ⟨t', o', h', ht⟩ := rxByteEvent_total b hs
  cases h'.symm.trans h
  exact ht

theorem rxBytes_accInv {bs : List Byte} {s t : State} {os : List EventOut} (h : rxBytes bs s = .ok (t, os))
    (hs : AccInv s) : AccInv t := by
  obtain ⟨t', os', h', ht⟩ := rxBytes_total bs hs
  cases h'.symm.trans h
  exact ht

theorem receiveLoop_accInv {ins : List Input} {s t : State} {os : List EventOut}
    (h : receiveLoop ins s = .ok (t, os)) (hs : AccInv s) : AccInv t := by
  obtain ⟨t', os', h', ht, -⟩ := receiveLoop_total ins hs
  cases h'.symm.trans h
  exact ht

theorem rxIdleEvent_eq_frame {expired : Bool} {s t : State} {o : EventOut} (h : rxIdleEvent expired s = (t, o)) :
    t = s.setRx t.rxs t.acc := by
  simpa only [h] using rxIdleEvent_frame expired s

/-- The receive call changes nothing but `RXS`, `ACC` and the inputs, from whatever state it is made. -/
theorem receiveLoop_frame {ins : List Input} {s t : State} {os : List EventOut}
    (h : receiveLoop ins s = .ok (t, os)) : t = { s.setRx t.rxs t.acc with inputs := t.inputs } := by
  fun_induction receiveLoop ins s generalizing t os with
  | case1 => cases h
  | case2 => cases h
  | case3 s b rest s1 o h1 hn s2 os hl ih =>
    cases h
    have e := ih hl
    rw [rxByteEvent_frame h1] at e
    exact e
  | case4 s b rest s1 o h1 hn =>
    cases h
    rw [rxByteEvent_frame h1]; rfl
  | case5 => cases h
  | case6 s x rest s1 o h1 hn s2 os hl ih =>
    cases h
    have e := ih hl
    rw [rxIdleEvent_eq_frame h1] at e
    exact e
  | case7 s x rest s1 o h1 hn =>
    cases h
    rw [rxIdleEvent_eq_frame h1]; rfl
  | case8 => cases h; rfl


theorem exec_rcvEvent_accInv {f : Event} {s t : State} (hf : rcvEvent f = true)
    (h : exec (decodeEvent s.rxs f) s = .next t) (hs : AccInv s) : AccInv t := by
  cases f <;> simp only [rcvEvent, Bool.false_eq_true] at hf
  case rxByte b =>
    obtain ⟨u, o, hu, hi⟩ := rxByteEvent_total b hs
    rw [decodeEvent, exec_decodeRxByte, hu, finishOne_ok] at h
    cases h
    exact (accInv_congr rfl rfl).2 hi
  case rxIdle expired =>
    cases (exec_rxIdle expired s).symm.trans h
    exact (accInv_congr rfl rfl).2 (rxIdleEvent_accInv expired hs)
  case rxLoad d => cases h; exact (accInv_congr rfl rfl).2 (accInv_load s d)
  case rxAbort => cases h; exact (accInv_congr rfl rfl).2 (accInv_restart s)

theorem stepKeeps_rcvEvent {f : Event} {s t : State} (hf : rcvEvent f = true)
    (h : exec (decodeEvent s.rxs f) s = .next t) : StepKeeps s t := by
  obtain ⟨o, ht, -⟩ := exec_rcvEvent_frame hf h
  rw [ht]
  refine .of_receiver (r := t.rxs) (a := t.acc) fun hs => ?_
  exact (accInv_congr (s := t) rfl rfl).2 (exec_rcvEvent_accInv hf h hs)

/-- A step of several receiver events: byte events one after the other, or the receive call. -/
theorem stepKeeps_finish {ran : Ran} {s t : State} (h : finish ran = .next t)
    (hframe : ∀ u os, ran = .ok (u, os) → u = { s.setRx u.rxs u.acc with inputs := u.inputs })
    (hacc : ∀ u os, ran = .ok (u, os) → AccInv s → AccInv u) : StepKeeps s t := by
  cases ran with
  | error f => cases h
  | ok q =>
    obtain ⟨u, os⟩ := q
    cases h
    rw [hframe u os rfl]
    exact .of_receiver fun hs => (accInv_congr rfl rfl).2 (hacc u os rfl hs)

theorem stepKeeps_rxBytes {bs : List Byte} {s t : State} (h : finish (rxBytes bs s) = .next t) : StepKeeps s t := by
  refine stepKeeps_finish h (fun u os hu => ?_) (fun u os hu => rxBytes_accInv hu)
  rw [rxBytes_frame hu]
  rfl

theorem stepKeeps_receiveFrame {s t : State} (h : exec .receiveFrame s = .next t) : StepKeeps s t :=
  stepKeeps_finish ((exec_receiveFrame s).symm.trans h) (fun _ _ => receiveLoop_frame) (fun _ _ => receiveLoop_accInv)

/-! ### Events, lines, cycles and steps -/

theorem stepKeeps_event {e : Event} {s t : State} (h : exec (decodeEvent s.rxs e) s = .next t) : StepKeeps s t := by
  cases e with
  | enc op a b => exact stepKeeps_decodeRequest h
  | send => cases (exec_txSend s).symm.trans h; exact stepKeeps_sendFrame s
  | getFrameBytes => cases (exec_getFrameBytes s).symm.trans h; exact stepKeeps_emit s _
  | getFrameRecord => cases (exec_getFrameRecord s).symm.trans h; exact stepKeeps_emit s _
  | rxByte b => exact stepKeeps_rcvEvent rfl h
  | rxIdle expired => exact stepKeeps_rcvEvent rfl h
  | rxLoad d => exact stepKeeps_rcvEvent rfl h
  | rxAbort => exact stepKeeps_rcvEvent rfl h
  | receiveFrame => exact stepKeeps_receiveFrame h
  | reset => cases (exec_reset s).symm.trans h; exact stepKeeps_resetCore s
  | chk v l c f pm pl => cases (exec_chk v l c f pm pl s).symm.trans h; exact stepKeeps_emit s _

/-- A line that is an inbound frame's row is a peer-error frame or a good frame: ten byte events (R90, R183, R236). -/
theorem exec_of_decodeInbound {F : FrameWord} {i : Instr} (h : decodeInbound F = .ok i) (s : State) :
    ∃ bs, exec i s = finish (rxBytes bs s) := by
  unfold decodeInbound at h
  split at h
  · rename_i j hj
    cases h
    obtain ⟨row, hrow, rfl⟩ := Option.map_eq_some_iff.1 hj
    have hmem : row ∈ inboundRows := List.mem_of_find?_eq_some hrow
    simp only [inboundRows, List.mem_cons, List.not_mem_nil, or_false] at hmem
    rcases hmem with rfl | rfl <;> exact ⟨_, rfl⟩
  · cases h

theorem stepKeeps_runLine {F : FrameWord} {s t : State} (h : runLine F s = .next t) : StepKeeps s t := by
  cases hF : decodeInbound F with
  | ok i =>
    obtain ⟨bs, hi⟩ := exec_of_decodeInbound hF s
    rw [runLine_of_decodeInbound hF, hi] at h
    exact stepKeeps_rxBytes h
  | error r =>
    simp only [runLine, hF] at h
    cases h
    exact .of_bookkeeping s s.handover _ [] s.tick

/-- Two parts of a step, one after the other. -/
theorem stepKeeps_chainOuts {o : Outcome} {f : State → Outcome} {s t : State} (h : chainOuts o f = .next t)
    (hfirst : ∀ u, o = .next u → StepKeeps s u) (hsecond : ∀ u v, f u = .next v → StepKeeps u v) :
    StepKeeps s t := by
  obtain ⟨u, v, hu, hv, rfl⟩ := chainOuts_eq_next.1 h
  exact ((hfirst u hu).trans (hsecond u v hv)).trans (.of_bookkeeping v v.handover v.inputs _ v.tick)

theorem stepKeeps_handOver {b : Byte} {left : List Byte} {s : State} (h : s.handover = b :: left) (ready : Bool) :
    StepKeeps s { s.handOver ready with outs := [] } := by
  rw [State.handOver_cons h]
  refine .of_registers_same rfl rfl rfl rfl rfl ⟨if ready then [b] else [], ?_⟩
  cases ready
  · exact (List.append_nil _).symm
  · rfl

theorem stepKeeps_encoderCycle {p : InPorts} {s t : State} (h : encoderCycle p s = .next t) : StepKeeps s t := by
  cases hs : s.handover with
  | nil =>
    rw [encoderCycle_free p hs] at h
    refine stepKeeps_chainOuts h (fun u hu => ?_) (fun u v hv => ?_)
    · split at hu
      · exact stepKeeps_decodeRequest hu
      · cases hu; exact .of_bookkeeping s s.handover s.inputs [] s.tick
    · cases hv
      split
      · exact .of_bookkeeping u (wireOrder u.outBytes) u.inputs [] u.tick
      · exact .of_bookkeeping u u.handover u.inputs [] u.tick
  | cons b left =>
    rw [encoderCycle_busy p (by simp [hs])] at h
    cases h
    exact stepKeeps_handOver hs p.txReady

theorem stepKeeps_cycle {p : InPorts} {s t : State} (h : cycle p s = .next t) : StepKeeps s t := by
  unfold cycle at h
  split at h
  · cases (exec_reset s).symm.trans h; exact stepKeeps_resetCore s
  · exact stepKeeps_chainOuts h (fun u => stepKeeps_event) (fun u v => stepKeeps_encoderCycle)

theorem stepKeeps_runInput {x : Input} {s t : State} (h : runInput x s = .next t) : StepKeeps s t := by
  cases x with
  | event e => exact stepKeeps_event h
  | line F => exact stepKeeps_runLine h
  | cycle p => exact stepKeeps_cycle h

theorem stepKeeps_step {s t : State} (h : step s = .next t) : StepKeeps s t := by
  cases hx : s.inputs with
  | nil =>
    cases (step_of_no_input hx).symm.trans h
    exact .of_bookkeeping s s.handover s.inputs [] (s.tick + 1)
  | cons x rest =>
    have taken : StepKeeps s (s.taking rest) := .of_bookkeeping s s.handover rest s.outs (s.tick + 1)
    exact taken.trans (stepKeeps_runInput ((step_of_input hx).symm.trans h))

end Sys2Proof.Machine

namespace Sys2Proof.Proofs

open Sys2Proof.Machine

/-- Settles O44: a step is a composition of parts each of which keeps the two invariants. -/
theorem stepKeepsTheInvariant : Obligations.StepKeepsTheInvariant := by
  intro s t ⟨hout, hacc⟩ h
  exact ⟨(stepKeeps_step h).outInv hout, (stepKeeps_step h).accInv hacc⟩

/-- Settles O46: the same composition, for the straps and the transmit stream. -/
theorem strapsAndSentBytesStay : Obligations.StrapsAndSentBytesStay := by
  intro s t h
  exact ⟨(stepKeeps_step h).feedback, (stepKeeps_step h).timeoutMs, (stepKeeps_step h).tx⟩

/-- Settles O42: after reset `OUT` is the reset frame and every slot is `EMPTY`. -/
theorem resetMeetsTheInvariant : Obligations.ResetMeetsTheInvariant :=
  ⟨outInv_reset State.reset rfl, Or.inl rfl⟩

end Sys2Proof.Proofs
end

section
/-! Reading the accumulator (spec 10_state.md R29): a computation that reads slots in turn answers when they are all
filled, and otherwise faults at one that is `EMPTY`. -/

namespace Sys2Proof.Machine

/-- The computation reads the listed slots: it faults at an `EMPTY` slot, or those slots are filled and it answers. -/
def ReadsSlots {α : Type} (s : State) (slots : List (Fin 10)) (r : Except Fault α) : Prop :=
  (∃ j, slotAt s.acc j = none ∧ r = .error (.emptySlotRead j)) ∨
    ((∀ i ∈ slots, slotAt s.acc i ≠ none) ∧ ∃ a, r = .ok a)

theorem ReadsSlots.fault_of_empty {α : Type} {s : State} {slots : List (Fin 10)} {r : Except Fault α}
    (h : ReadsSlots s slots r) {i : Fin 10} (hi : i ∈ slots) (hempty : slotAt s.acc i = none) :
    ∃ j, slotAt s.acc j = none ∧ r = .error (.emptySlotRead j) := by
  obtain hfault | ⟨hfilled, -⟩ := h
  · exact hfault
  · exact absurd hempty (hfilled i hi)

theorem readsSlots_pure {α : Type} (s : State) (a : α) : ReadsSlots s [] (Except.ok a) :=
  .inr ⟨fun _ hi => absurd hi List.not_mem_nil, a, rfl⟩

theorem readsSlots_readSlot (s : State) (i : Fin 10) : ReadsSlots s [i] (readSlot s i) := by
  cases h : slotAt s.acc i with
  | none => exact .inl ⟨i, h, readSlot_empty h⟩
  | some b => exact .inr ⟨fun j hj => by simp [List.mem_singleton.1 hj, h], b, readSlot_ok h⟩

theorem ReadsSlots.bind {α β : Type} {s : State} {slots slots' : List (Fin 10)} {r : Except Fault α}
    {k : α → Except Fault β} (h : ReadsSlots s slots r) (hk : ∀ a, ReadsSlots s slots' (k a)) :
    ReadsSlots s (slots ++ slots') (r >>= k) := by
  obtain ⟨j, hj, rfl⟩ | ⟨hfilled, a, rfl⟩ := h
  · exact .inl ⟨j, hj, rfl⟩
  · obtain hfault | ⟨hfilled', hok⟩ := hk a
    · exact .inl hfault
    · exact .inr ⟨fun i hi => (List.mem_append.1 hi).elim (hfilled i) (hfilled' i), hok⟩

theorem readsSlots_accumulatedChecksum (s : State) :
    ReadsSlots s [1, 2, 3, 4, 5, 6] (accumulatedChecksum s) :=
  (readsSlots_readSlot s 1).bind fun _ => (readsSlots_readSlot s 2).bind fun _ =>
    (readsSlots_readSlot s 3).bind fun _ => (readsSlots_readSlot s 4).bind fun _ =>
      (readsSlots_readSlot s 5).bind fun _ => (readsSlots_readSlot s 6).bind fun _ => readsSlots_pure s _

/-- State 8 reads the slots 1 to 7 (R28, R180). -/
theorem readsSlots_judgeChecksum (b : Byte) (s : State) : ReadsSlots s [1, 2, 3, 4, 5, 6, 7] (judgeChecksum b s) := by
  refine (readsSlots_accumulatedChecksum s).bind fun expected => (readsSlots_readSlot s 7).bind fun m => ?_
  split
  · exact readsSlots_pure s _
  · exact readsSlots_pure s _

theorem readsSlots_completedFrame (s : State) : ReadsSlots s [0, 1, 2, 3, 4, 5, 6, 7, 8] (completedFrame s) :=
  (readsSlots_readSlot s 0).bind fun _ => (readsSlots_readSlot s 1).bind fun _ =>
    (readsSlots_readSlot s 2).bind fun _ => (readsSlots_readSlot s 3).bind fun _ =>
      (readsSlots_readSlot s 4).bind fun _ => (readsSlots_readSlot s 5).bind fun _ =>
        (readsSlots_readSlot s 6).bind fun _ => (readsSlots_readSlot s 7).bind fun _ =>
          (readsSlots_readSlot s 8).bind fun _ => readsSlots_pure s _

/-- State 9 reads the slots 0 to 8 at the end marker (R28, R181). -/
theorem readsSlots_deliverFrame (s : State) : ReadsSlots s [0, 1, 2, 3, 4, 5, 6, 7, 8] (deliverFrame s) :=
  (readsSlots_completedFrame s).bind fun _ => readsSlots_pure s _

theorem exec_rxChecksumLsb {s : State} (h : s.rxs = .awaitingChecksumLsb) (b : Byte) :
    exec (.rxChecksumLsb b) s = finishOne (judgeChecksum b s) := by
  show inState .awaitingChecksumLsb s _ = _
  rw [← h, inState_same]

theorem exec_rxEndOk {s : State} (h : s.rxs = .awaitingEnd) : exec .rxEndOk s = finishOne (deliverFrame s) := by
  show inState .awaitingEnd s _ = _
  rw [← h, inState_same]

end Sys2Proof.Machine

namespace Sys2Proof.Proofs

open Sys2Proof.Machine

/-- Settles O21: which slots each of the two rules reads, and that a read of an `EMPTY` one is the fault. -/
theorem emptySlotReadFaults : Obligations.EmptySlotReadFaults := by
  refine ⟨?checksumLsb, ?endMarker⟩
  case checksumLsb =>
    intro b s hs ⟨i, hlow, hhigh, hi⟩
    have hread : ∀ i : Fin 10, 1 ≤ i.val → i.val ≤ 7 → i ∈ [1, 2, 3, 4, 5, 6, 7] := by decide
    obtain ⟨j, hj, hfault⟩ := (readsSlots_judgeChecksum b s).fault_of_empty (hread i hlow hhigh) hi
    exact ⟨j, hj, by rw [exec_rxChecksumLsb hs, hfault, finishOne_error]⟩
  case endMarker =>
    intro s hs ⟨i, hhigh, hi⟩
    have hread : ∀ i : Fin 10, i.val ≤ 8 → i ∈ [0, 1, 2, 3, 4, 5, 6, 7, 8] := by decide
    obtain ⟨j, hj, hfault⟩ := (readsSlots_deliverFrame s).fault_of_empty (hread i hhigh) hi
    exact ⟨j, hj, by rw [exec_rxEndOk hs, hfault, finishOne_error]⟩

end Sys2Proof.Proofs
end

section
/-! The byte event, state by state (spec 42_receiver.md R172 to R181). -/

namespace Sys2Proof.Machine

section
variable {s : State} (b : Byte)

theorem rxByteEvent_awaitingStart (h : s.rxs = .awaitingStart) :
    rxByteEvent b s = .ok (if b = Config.startMarker then acceptStart s else discardByte s) := by
  simp only [rxByteEvent, h]

theorem rxByteEvent_awaitingVersion (h : s.rxs = .awaitingVersion) :
    rxByteEvent b s = .ok (if b = Config.version then acceptVersion s else raise .version s) := by
  simp only [rxByteEvent, h]

theorem rxByteEvent_awaitingLength (h : s.rxs = .awaitingLength) :
    rxByteEvent b s = .ok (if b = Config.length then acceptLength s else raise .length s) := by
  simp only [rxByteEvent, h]

/-- States 3 to 7 accept every byte (R175 to R179). -/
theorem rxByteEvent_data (h : s.rxs ∈ [RxState.awaitingCommand, .awaitingFeedback, .awaitingParamMsb,
      .awaitingParamLsb, .awaitingChecksumMsb]) :
    ∃ r a, rxByteEvent b s = .ok (s.setRx r a, {}) ∧ r.code = s.rxs.code + 1#4 := by
  simp only [List.mem_cons, List.not_mem_nil, or_false] at h
  rcases h with h | h | h | h | h <;> rw [rxByteEvent, h] <;> exact ⟨_, _, rfl, rfl⟩

theorem rxByteEvent_awaitingChecksumLsb (h : s.rxs = .awaitingChecksumLsb) : rxByteEvent b s = judgeChecksum b s := by
  simp only [rxByteEvent, h]

theorem rxByteEvent_awaitingEnd (h : s.rxs = .awaitingEnd) :
    rxByteEvent b s = if b = Config.endMarker then deliverFrame s else .ok (raise .endMarker s) := by
  simp only [rxByteEvent, h]

end

/-- Behind a filled accumulator the byte completes the checksum exactly when the receiver's comparison of both checksum
bytes says so (R180). -/
theorem checksumFits_iff {s : State} {d : Slots Byte} (h : s.acc = firstSlots 8 d) (b : Byte) :
    ChecksumFits s b ↔ half d.cm b = expectedChecksum d := by
  rw [← BitVec.toNat_inj, half_toNat]
  constructor
  · rintro ⟨v, l, c, f, pm, pl, m, h1, h2, h3, h4, h5, h6, h7, hfits⟩
    rw [h] at h1 h2 h3 h4 h5 h6 h7
    cases h1; cases h2; cases h3; cases h4; cases h5; cases h6; cases h7
    exact hfits
  · intro hfits
    exact ⟨d.ver, d.len, d.cmd, d.fb, d.pm, d.pl, d.cm, by rw [h]; rfl, by rw [h]; rfl, by rw [h]; rfl,
      by rw [h]; rfl, by rw [h]; rfl, by rw [h]; rfl, by rw [h]; rfl, hfits⟩

/-- Outside awaiting-start the slots below the state's number are filled, and no others (R27). -/
theorem AccInv.filled {s : State} (h : AccInv s) {r : RxState} (hr : s.rxs = r) (hne : r ≠ .awaitingStart) :
    ∃ d, s.acc = firstSlots r.code.toNat d ∧ PrefixGood r.code.toNat d := by
  subst hr
  rwa [AccInv, if_neg hne] at h

/-- The judgement of state 8 behind a filled accumulator (R180). -/
theorem judgeChecksum_firstSlots {s : State} {d : Slots Byte} (h : s.acc = firstSlots 8 d) (b : Byte) :
    judgeChecksum b s = .ok (if half d.cm b = expectedChecksum d then
      (s.setRx .awaitingEnd { s.acc with cl := some b }, {}) else raise .checksum s) :=
  judgeChecksum_filled b (by rw [h]; rfl) (by rw [h]; rfl) (by rw [h]; rfl) (by rw [h]; rfl) (by rw [h]; rfl)
    (by rw [h]; rfl) (by rw [h]; rfl)

end Sys2Proof.Machine

namespace Sys2Proof.Proofs

open Sys2Proof.Machine

/-- Settles O22, by the ten states: a state with one good byte, a state that takes every byte, the checksum's last byte,
and the end marker. -/
theorem byteEventMovesState : Obligations.ByteEventMovesState := by
  intro b s hs
  rw [exec_decodeRxByte]
  cases hr : s.rxs
  case awaitingStart =>
    rw [rxByteEvent_awaitingStart b hr]
    by_cases hb : b = Config.startMarker
    · rw [if_pos hb]
      exact ⟨_, _, rfl, rfl, .inl ⟨rfl, nofun, rfl, fun _ => hb, nofun, nofun, nofun⟩⟩
    · rw [if_neg hb]
      exact ⟨_, _, rfl, rfl, .inr (.inl ⟨hr, rfl, hb, rfl, rfl⟩)⟩
  case awaitingVersion =>
    rw [rxByteEvent_awaitingVersion b hr]
    by_cases hb : b = Config.version
    · rw [if_pos hb]
      exact ⟨_, _, rfl, rfl, .inl ⟨rfl, nofun, rfl, nofun, fun _ => hb, nofun, nofun⟩⟩
    · rw [if_neg hb]
      exact ⟨_, _, rfl, rfl, .inr (.inr ⟨rfl, rfl, .inl ⟨rfl, hb, rfl⟩⟩)⟩
  case awaitingLength =>
    rw [rxByteEvent_awaitingLength b hr]
    by_cases hb : b = Config.length
    · rw [if_pos hb]
      exact ⟨_, _, rfl, rfl, .inl ⟨rfl, nofun, rfl, nofun, nofun, fun _ => hb, nofun⟩⟩
    · rw [if_neg hb]
      exact ⟨_, _, rfl, rfl, .inr (.inr ⟨rfl, rfl, .inr (.inl ⟨rfl, hb, rfl⟩)⟩)⟩
  case awaitingCommand | awaitingFeedback | awaitingParamMsb | awaitingParamLsb | awaitingChecksumMsb =>
    obtain ⟨r, a, hstored, hcode⟩ := rxByteEvent_data (s := s) b (by simp [hr])
    rw [hstored]
    exact ⟨_, _, rfl, rfl, .inl ⟨hr ▸ hcode, nofun, rfl, nofun, nofun, nofun, nofun⟩⟩
  case awaitingChecksumLsb =>
    obtain ⟨d, ha, -⟩ := hs.filled hr (by decide)
    rw [rxByteEvent_awaitingChecksumLsb b hr, judgeChecksum_firstSlots ha]
    by_cases hk : half d.cm b = expectedChecksum d
    · rw [if_pos hk]
      exact ⟨_, _, rfl, rfl,
        .inl ⟨rfl, nofun, rfl, nofun, nofun, nofun, fun _ => (checksumFits_iff ha b).2 hk⟩⟩
    · rw [if_neg hk]
      exact ⟨_, _, rfl, rfl, .inr (.inr ⟨rfl, rfl,
        .inr (.inr (.inl ⟨rfl, fun hfits => hk ((checksumFits_iff ha b).1 hfits), rfl⟩))⟩)⟩
  case awaitingEnd =>
    obtain ⟨d, ha, -⟩ := hs.filled hr (by decide)
    rw [rxByteEvent_awaitingEnd b hr, deliverFrame_filled ha]
    by_cases hb : b = Config.endMarker
    · rw [if_pos hb]
      exact ⟨_, _, rfl, rfl, .inr (.inr ⟨rfl, rfl, .inr (.inr (.inr (.inr ⟨rfl, hb, _, rfl⟩)))⟩)⟩
    · rw [if_neg hb]
      exact ⟨_, _, rfl, rfl, .inr (.inr ⟨rfl, rfl, .inr (.inr (.inr (.inl ⟨rfl, hb, rfl⟩)))⟩)⟩

end Sys2Proof.Proofs
end

section
/-! Which registers an event of each agent may change (spec 10_state.md R25, R28, 20_memory.md R76). -/

namespace Sys2Proof.Machine

theorem rxs_of_inState {r : RxState} {s t : State} {ran : RanOne} (h : inState r s ran = .next t) : s.rxs = r := by
  unfold inState at h
  split at h
  · assumption
  · cases h

/-- A byte event's instruction runs in the state that it was decoded for (R113). -/
theorem exec_decodeRxByte_inState (r : RxState) (b : Byte) (s : State) :
    ∃ ran, exec (decodeRxByte r b) s = inState r s ran := by
  cases r <;> simp only [decodeRxByte]
  case awaitingStart | awaitingVersion | awaitingLength | awaitingEnd => split <;> exact ⟨_, rfl⟩
  all_goals exact ⟨_, rfl⟩

theorem rxs_of_exec_decodeRxByte {r : RxState} {b : Byte} {s t : State} (h : exec (decodeRxByte r b) s = .next t) :
    s.rxs = r := by
  obtain ⟨ran, hran⟩ := exec_decodeRxByte_inState r b s
  exact rxs_of_inState (hran.symm.trans h)

/-- An encoder event leaves the receiver's registers and the inputs alone. -/
theorem exec_encoderEvent_frame {e : Event} {r : RxState} {s t : State} (he : encoderEvent e = true)
    (h : exec (decodeEvent r e) s = .next t) : t.acc = s.acc ∧ t.rxs = s.rxs ∧ t.inputs = s.inputs := by
  cases e <;> simp only [encoderEvent, Bool.false_eq_true] at he
  case enc op a b =>
    by_cases hop : op ∈ listedOps
    · obtain ⟨p, hp⟩ := exec_decodeRequest_listed hop a b s
      cases hp.symm.trans h
      exact ⟨encodeCommon_acc op p s, encodeCommon_rxs op p s, encodeCommon_inputs op p s⟩
    · cases (exec_decodeRequest_unlisted hop a b s).symm.trans h
      exact ⟨rfl, rfl, rfl⟩
  case send => cases (exec_txSend s).symm.trans h; exact ⟨rfl, rfl, rfl⟩
  case getFrameBytes => cases (exec_getFrameBytes s).symm.trans h; exact ⟨rfl, rfl, rfl⟩
  case getFrameRecord => cases (exec_getFrameRecord s).symm.trans h; exact ⟨rfl, rfl, rfl⟩

end Sys2Proof.Machine

namespace Sys2Proof.Proofs

open Sys2Proof.Machine

/-- Settles O47: the encoder's events by cases, the receiver's by the frame of a receiver event. An instruction decoded
for a state that the receiver is not in does not answer. -/
theorem agentsKeepToTheirRegisters : Obligations.AgentsKeepToTheirRegisters := by
  intro e r s t h
  refine ⟨fun he => exec_encoderEvent_frame he h, fun hf => ?_⟩
  have hcurrent : exec (decodeEvent s.rxs e) s = .next t := by
    cases e with
    | rxByte b => rwa [rxs_of_exec_decodeRxByte h]
    | _ => exact h
  obtain ⟨o, ht, -⟩ := exec_rcvEvent_frame hf hcurrent
  rw [ht]
  exact ⟨rfl, rfl, rfl, rfl⟩

end Sys2Proof.Proofs
end

section
/-! The events of a clock cycle (spec 10_state.md R45): which they are, and what each part of the cycle leaves. -/

namespace Sys2Proof.Machine

theorem cycle_of_rst {p : InPorts} (h : p.rst = true) (s : State) : cycle p s = exec .reset s := by
  rw [cycle, if_pos h]

theorem cycle_of_not_rst {p : InPorts} (h : p.rst = false) (s : State) :
    cycle p s = chainOuts (exec (decodeEvent s.rxs (receiverEvent p)) s) (encoderCycle p) := by
  rw [cycle, h, if_neg Bool.false_ne_true]

/-- Both parts of a cycle without reset answer. -/
theorem cycle_next {p : InPorts} {s s1 t : State} (h : p.rst = false)
    (hrcv : exec (decodeEvent s.rxs (receiverEvent p)) s = .next s1) (henc : encoderCycle p s1 = .next t) :
    cycle p s = .next { t with outs := s1.outs ++ t.outs } := by
  rw [cycle_of_not_rst h]
  exact chainOuts_eq_next.2 ⟨s1, t, hrcv, henc, rfl⟩

/-- The encoder's event of a cycle in which it is free (R45): the request, if there is one. -/
def encoderRequest (p : InPorts) (s : State) : Outcome :=
  if p.encValid then exec (decodeRequest p.encOp p.encA p.encB) s else .next { s with outs := [] }

/-- A free encoder takes its request, and then holds the frame now in `OUT` if a `Send` is asked for (R45, R215). -/
theorem encoderCycle_of_request {p : InPorts} {s t : State} (hfree : s.handover = [])
    (hreq : encoderRequest p s = .next t) :
    encoderCycle p s = .next { t with handover := if p.txSend then wireOrder t.outBytes else t.handover } := by
  rw [encoderCycle_free p hfree]
  refine chainOuts_eq_next.2 ⟨t, _, hreq, rfl, ?_⟩
  rw [List.append_nil]
  cases p.txSend <;> rfl

/-- An encoder that hands over takes no event: one byte goes out if the transport is ready (R44, R45). -/
theorem encoderCycle_of_handover {p : InPorts} {b : Byte} {left : List Byte} {s : State}
    (h : s.handover = b :: left) :
    encoderCycle p s = .next { s with
      handover := if p.txReady then left else b :: left
      tx := if p.txReady then s.tx ++ [b] else s.tx
      outs := [] } := by
  rw [encoderCycle_busy p (h ▸ List.cons_ne_nil b left), State.handOver_cons h]

/-- The encoder's part leaves `RXS` alone and has no output but the refusal, which it gives where it is free and takes a
request whose number is none of the twelve (R45, R155). -/
theorem encoderCycle_outs {p : InPorts} {s t : State} (h : encoderCycle p s = .next t) :
    t.rxs = s.rxs ∧ (∀ o ∈ t.outs, o = {} ∨ o = { encRefused := true }) ∧
      ({ encRefused := true } ∈ t.outs ↔ s.handover = [] ∧ p.encValid = true ∧ p.encOp ∉ listedOps) := by
  cases hs : s.handover with
  | cons b left =>
    cases (encoderCycle_of_handover hs).symm.trans h
    simp
  | nil =>
    by_cases hvalid : p.encValid = true
    · by_cases hop : p.encOp ∈ listedOps
      · obtain ⟨param, hreq⟩ := exec_decodeRequest_listed hop p.encA p.encB s
        cases (encoderCycle_of_request hs ((if_pos hvalid).trans hreq)).symm.trans h
        simp [hop]
      · have hreq := exec_decodeRequest_unlisted hop p.encA p.encB s
        cases (encoderCycle_of_request hs ((if_pos hvalid).trans hreq)).symm.trans h
        simp [hvalid, hop]
    · cases (encoderCycle_of_request hs (if_neg hvalid)).symm.trans h
      simp [hvalid]

/-- A cycle without reset has the receiver's output, and then those of the encoder's part (R45). -/
theorem cycle_outs {p : InPorts} {o : EventOut} {s s1 t : State} (hrst : p.rst = false)
    (hrcv : exec (decodeEvent s.rxs (receiverEvent p)) s = .next s1) (ho : s1.outs = [o])
    (h : cycle p s = .next t) :
    t.rxs = s1.rxs ∧ o.encRefused = false ∧
      ∃ encOuts, t.outs = o :: encOuts ∧ (∀ x ∈ encOuts, x = {} ∨ x = { encRefused := true }) ∧
        ({ encRefused := true } ∈ encOuts ↔ s.handover = [] ∧ p.encValid = true ∧ p.encOp ∉ listedOps) := by
  rw [cycle_of_not_rst hrst] at h
  obtain ⟨u, v, hu, hv, rfl⟩ := chainOuts_eq_next.1 h
  cases hrcv.symm.trans hu
  obtain ⟨o', hs1, ho'⟩ := exec_rcvEvent_frame (rcvEvent_receiverEvent p) hrcv
  have hoo : o' = o := by
    rw [hs1] at ho
    exact List.singleton_injective ho
  have hhandover : s1.handover = s.handover := by rw [hs1]; rfl
  obtain ⟨hrxs, houts, hrefused⟩ := encoderCycle_outs hv
  refine ⟨hrxs, hoo ▸ ho', v.outs, ?_, houts, hhandover ▸ hrefused⟩
  rw [ho]
  rfl

end Sys2Proof.Machine

namespace Sys2Proof.Proofs

open Sys2Proof.Machine

/-- Settles O50: the receiver's event leaves the encoder free, so the encoder's part is its request and the `Send`. -/
theorem cycleIsItsEvents : Obligations.CycleIsItsEvents := by
  intro p s s1 s2 hrst hfree hrcv hreq
  obtain ⟨o, hs1, -⟩ := exec_rcvEvent_frame (rcvEvent_receiverEvent p) hrcv
  have hfree1 : s1.handover = [] := by rw [hs1]; exact hfree
  exact cycle_next hrst hrcv (encoderCycle_of_request hfree1 hreq)

/-- Settles O51: the receiver's event leaves `OUT`, the held bytes and the stream alone, and refuses no request. -/
theorem busyCycleHandsOverOneByte : Obligations.BusyCycleHandsOverOneByte := by
  intro p b left s s1 hrst hbusy hrcv
  obtain ⟨o, hs1, ho⟩ := exec_rcvEvent_frame (rcvEvent_receiverEvent p) hrcv
  have hbusy1 : s1.handover = b :: left := by rw [hs1]; exact hbusy
  have hout : s1.out = s.out := by rw [hs1]; rfl
  have htx : s1.tx = s.tx := by rw [hs1]; rfl
  have houts : s1.outs = [o] := by rw [hs1]; rfl
  have hcycle := cycle_next hrst hrcv (encoderCycle_of_handover hbusy1)
  rw [List.append_nil, htx] at hcycle
  refine ⟨_, hcycle, rfl, hout, ?stream, ?refused⟩
  case stream =>
    rw [hbusy]
    cases p.txReady
    · rfl
    · exact List.append_assoc s.tx [b] left
  case refused =>
    intro x hx
    rw [houts] at hx
    rw [List.mem_singleton.1 hx, ho]

/-- Settles O49: the branches of the arbitration, in their order. -/
theorem cycleArbitration : Obligations.CycleArbitration := by
  intro p s
  refine ⟨fun hrst => ⟨cycle_of_rst hrst s, ?_⟩, fun habort => ?_, fun habort hload => ?_,
    fun habort hload hvalid => ?_, fun habort hload hvalid => ?_⟩
  · simp [rxTake, hrst]
  · simp [receiverEvent, rxTake, habort]
  · simp [receiverEvent, rxTake, habort, hload]
  · simp [receiverEvent, rxTake, habort, hload, hvalid]
  · simp [receiverEvent, rxTake, habort, hload, hvalid]

/-- Settles O41: the fields of the reset state, and the reset frame's checksum by evaluation. -/
theorem stateAfterReset : Obligations.StateAfterReset :=
  ⟨rfl, slotAt_emptyAcc, rfl, by decide, rfl⟩

end Sys2Proof.Proofs
end

section
/-! The output ports (spec 10_state.md R44, R46, 60_exceptions.md R231). -/

namespace Sys2Proof.Machine

theorem State.txBusy_iff (s : State) : s.txBusy = true ↔ s.handover ≠ [] := by simp [State.txBusy]

theorem slotAt_accView (s : State) (i : Fin 10) :
    slotAt s.accView i = (slotAt s.acc i).getD (Config.emptySlotByte s.tick i) := by
  fin_cases i <;> rfl

theorem recordOf_bytesOf (fr : Frame) : recordOf (bytesOf fr) = fr := by
  simp only [recordOf, bytesOf, half_hi_lo]

section
variable (p : InPorts) {s : State}

/-- `rx_acc` shows a filled slot as it is (R26, R44). -/
theorem outPorts_rxAcc {i : Fin 10} {b : Byte} (h : slotAt s.acc i = some b) :
    wireByte (s.outPorts p).rxAcc i = b := by
  show wireByte (wireWord s.accView) i = b
  rw [wireByte_wireWord, slotAt_accView, h, Option.getD_some]

theorem outPorts_tmrArm : (s.outPorts p).tmrArm = true ↔ ∃ o ∈ s.outs, o.arm ≠ none := by
  simp only [State.outPorts, List.any_eq_true, Option.isSome_iff_ne_none]

theorem outPorts_encRefused : (s.outPorts p).encRefused = true ↔ ∃ o ∈ s.outs, o.encRefused = true := by
  simp only [State.outPorts, List.any_eq_true]

theorem outPorts_rxStatus : (s.outPorts p).rxStatus = statusCode (resultOf s.outs) := rfl

/-- Where no event had a result the result ports are 0 (R46). -/
theorem outPorts_of_no_result (h : resultOf s.outs = .none) :
    (s.outPorts p).rxStatus = 0#3 ∧ (s.outPorts p).rxFrame = 0#80 ∧ (s.outPorts p).rxPeerErr = false ∧
      (s.outPorts p).rxPeerCode = 0#16 := by
  simp only [State.outPorts, h, statusCode, and_self]

/-- A `FRAME` is shown with its bytes and its classification (R231, R236). -/
theorem outPorts_of_frame {fr : Frame} (h : resultOf s.outs = .frame fr) :
    (s.outPorts p).rxStatus = 1#3 ∧ recordOf (wireBytes (s.outPorts p).rxFrame) = fr ∧
      (s.outPorts p).rxPeerErr = decide (fr.command = 0x40#8) ∧ (s.outPorts p).rxPeerCode = fr.param := by
  simp only [State.outPorts, h, statusCode, wireBytes_wireWord, recordOf_bytesOf, peerReport, beq_eq_decide,
    Config.peerErrorCmd, and_self]

/-- The result ports show a result, if it is one, under its code of R231. -/
theorem outPorts_show_result {r : Result} (h : r ≠ .none → resultOf s.outs = r) :
    (∀ fr, r = .frame fr →
      (s.outPorts p).rxStatus = 1#3 ∧ recordOf (wireBytes (s.outPorts p).rxFrame) = fr ∧
      (s.outPorts p).rxPeerErr = decide (fr.command = 0x40#8) ∧ (s.outPorts p).rxPeerCode = fr.param) ∧
    (r = .err .version → (s.outPorts p).rxStatus = 2#3) ∧
    (r = .err .length → (s.outPorts p).rxStatus = 3#3) ∧
    (r = .err .checksum → (s.outPorts p).rxStatus = 4#3) ∧
    (r = .err .endMarker → (s.outPorts p).rxStatus = 5#3) ∧
    (r = .err .timeout → (s.outPorts p).rxStatus = 6#3) := by
  have err_code (k : ErrKind) (hr : r = .err k) : (s.outPorts p).rxStatus = statusCode (.err k) := by
    subst hr
    rw [outPorts_rxStatus, h nofun]
  refine ⟨?_, err_code _, err_code _, err_code _, err_code _, err_code _⟩
  rintro fr rfl
  exact outPorts_of_frame p (h nofun)

end

/-- Behind the first event none has a result: what is shown is the first event's, also where that is `NONE`. -/
theorem resultOf_cons {o : EventOut} {after : List EventOut} (h : ∀ x ∈ after, x.result = .none) :
    resultOf (o :: after) = o.result := by
  by_cases ho : o.result = .none
  · rw [ho]
    exact resultOf_none (List.forall_mem_cons.2 ⟨ho, h⟩)
  · exact resultOf_first (before := []) (fun _ hx => absurd hx List.not_mem_nil) ho

end Sys2Proof.Machine

namespace Sys2Proof.Proofs

open Sys2Proof.Machine

/-- Settles O53: one rule per port; the result ports by the first result, or its absence. -/
theorem portsShowStateAndPulses : Obligations.PortsShowStateAndPulses := by
  intro p s
  refine ⟨rfl, rfl, rfl, rfl, rfl, s.txBusy_iff, s.txBusy_iff, ?txData, fun i b => outPorts_rxAcc p,
    outPorts_tmrArm p, outPorts_encRefused p, fun hnone => outPorts_of_no_result p (resultOf_none hnone), ?first,
    ?idle⟩
  case txData =>
    intro b left h
    simp only [State.outPorts, h, List.head?_cons, Option.getD_some]
  case first =>
    intro before o after houts hbefore
    refine outPorts_show_result p fun hresult => ?_
    rw [houts]
    exact resultOf_first hbefore hresult
  case idle =>
    intro t hinputs h
    cases (step_of_no_input hinputs).symm.trans h
    obtain ⟨hstatus, hframe, herr, hcode⟩ := outPorts_of_no_result p (s := s.idleStep) rfl
    exact ⟨hstatus, rfl, rfl, hframe, herr, hcode⟩

/-- Settles O54: of the outputs of a cycle the first is the receiver's, and those of the encoder's part have neither a
result nor an arm request. -/
theorem cyclePortsShowItsEvents : Obligations.CyclePortsShowItsEvents := by
  intro p q o s s1 t hrst hrcv ho h
  obtain ⟨hrxs, horefused, encOuts, houts, henc, hrefused⟩ := cycle_outs hrst hrcv ho h
  have henc_result : ∀ x ∈ encOuts, x.result = .none := fun x hx => by rcases henc x hx with rfl | rfl <;> rfl
  have henc_arm : ∀ x ∈ encOuts, x.arm = none := fun x hx => by rcases henc x hx with rfl | rfl <;> rfl
  have hresult : resultOf t.outs = o.result := by rw [houts]; exact resultOf_cons henc_result
  refine ⟨congrArg RxState.code hrxs, ?arm, ?refused, fun hnone => outPorts_of_no_result q (hresult.trans hnone),
    outPorts_show_result q fun _ => hresult⟩
  case arm =>
    rw [outPorts_tmrArm, houts, List.exists_mem_cons_iff]
    exact or_iff_left fun ⟨x, hx, harm⟩ => harm (henc_arm x hx)
  case refused =>
    rw [outPorts_encRefused, houts, List.exists_mem_cons_iff, ← hrefused, horefused]
    constructor
    · rintro (hfalse | ⟨x, hx, hxrefused⟩)
      · cases hfalse
      · obtain rfl | rfl := henc x hx
        · cases hxrefused
        · exact hx
    · exact fun hx => .inr ⟨_, hx, rfl⟩

end Sys2Proof.Proofs
end

section
/-! Every input has a defined outcome (spec 20_memory.md R72): from a state that meets the fill invariant each event,
line, cycle and step answers a next state. -/

namespace Sys2Proof.Machine

/-- A request answers in every state: listed or refused, it is a next state (R141, R155). -/
theorem exec_decodeRequest_total (op : Byte) (a : Half) (b : Byte) (s : State) :
    ∃ t, exec (decodeRequest op a b) s = .next t := by
  by_cases hop : op ∈ listedOps
  · obtain ⟨p, hp⟩ := exec_decodeRequest_listed hop a b s
    exact ⟨_, hp⟩
  · exact ⟨_, exec_decodeRequest_unlisted hop a b s⟩

/-- Byte events run as one step answer, with one output for each byte. -/
theorem finish_rxBytes_total {s : State} (bs : List Byte) (hs : AccInv s) :
    ∃ t, finish (rxBytes bs s) = .next t ∧ t.outs.length = bs.length := by
  obtain ⟨t, os, h, -⟩ := rxBytes_total bs hs
  exact ⟨{ t with outs := os }, by rw [h, finish_ok], rxBytes_length h⟩

/-- Only a byte event and the receive call read the accumulator; every other event answers from any state. -/
theorem exec_decodeEvent_total {s : State} (e : Event) (hs : AccInv s) :
    ∃ t, exec (decodeEvent s.rxs e) s = .next t := by
  cases e with
  | enc op a b => exact exec_decodeRequest_total op a b s
  | send => exact ⟨_, exec_txSend s⟩
  | getFrameBytes => exact ⟨_, exec_getFrameBytes s⟩
  | getFrameRecord => exact ⟨_, exec_getFrameRecord s⟩
  | rxByte b =>
    obtain ⟨t, o, h, -⟩ := rxByteEvent_total b hs
    exact ⟨_, by rw [decodeEvent, exec_decodeRxByte, h, finishOne_ok]⟩
  | rxIdle expired => exact ⟨_, exec_rxIdle expired s⟩
  | rxLoad d => exact ⟨(s.load d).emit {}, rfl⟩
  | rxAbort => exact ⟨s.restart.emit {}, rfl⟩
  | receiveFrame =>
    obtain ⟨t, os, h, -⟩ := receiveLoop_total (asPolls s.inputs) hs
    exact ⟨_, by rw [decodeEvent, exec_receiveFrame, h, finish_ok]⟩
  | reset => exact ⟨_, exec_reset s⟩
  | chk v l c f pm pl => exact ⟨_, exec_chk v l c f pm pl s⟩

theorem runLine_total {s : State} (F : FrameWord) (hs : AccInv s) : ∃ t, runLine F s = .next t := by
  cases hF : decodeInbound F with
  | ok i =>
    obtain ⟨bs, hi⟩ := exec_of_decodeInbound hF s
    obtain ⟨t, ht, -⟩ := finish_rxBytes_total bs hs
    exact ⟨t, by rw [runLine_of_decodeInbound hF, hi, ht]⟩
  | error r => exact ⟨_, by rw [runLine, hF]⟩

/-- The encoder's part of a cycle reads no accumulator, so that it answers from any state (R45). -/
theorem encoderCycle_total (p : InPorts) (s : State) : ∃ t, encoderCycle p s = .next t := by
  cases hs : s.handover with
  | nil =>
    by_cases hvalid : p.encValid = true
    · obtain ⟨u, hu⟩ := exec_decodeRequest_total p.encOp p.encA p.encB s
      exact ⟨_, encoderCycle_of_request hs ((if_pos hvalid).trans hu)⟩
    · exact ⟨_, encoderCycle_of_request hs (if_neg hvalid)⟩
  | cons b left => exact ⟨_, encoderCycle_of_handover hs⟩

theorem cycle_total {s : State} (p : InPorts) (hs : AccInv s) : ∃ t, cycle p s = .next t := by
  cases hrst : p.rst with
  | true => exact ⟨_, (cycle_of_rst hrst s).trans (exec_reset s)⟩
  | false =>
    obtain ⟨s1, hrcv⟩ := exec_decodeEvent_total (receiverEvent p) hs
    obtain ⟨s2, henc⟩ := encoderCycle_total p s1
    exact ⟨_, cycle_next hrst hrcv henc⟩

theorem runInput_total {s : State} (x : Input) (hs : AccInv s) : ∃ t, runInput x s = .next t := by
  cases x with
  | event e => exact exec_decodeEvent_total e hs
  | line F => exact runLine_total F hs
  | cycle p => exact cycle_total p hs

/-- Progress: the fill invariant is all that a step needs (R72). -/
theorem step_total {s : State} (hs : AccInv s) : ∃ t, step s = .next t := by
  cases hx : s.inputs with
  | nil => exact ⟨_, step_of_no_input hx⟩
  | cons x rest =>
    rw [step_of_input hx]
    exact runInput_total x ((accInv_congr (s := s) rfl rfl).2 hs)

theorem runSteps_succ {s s1 : State} (h : step s = .next s1) (n : Nat) : runSteps (n + 1) s = runSteps n s1 := by
  simp only [runSteps, h]

end Sys2Proof.Machine

namespace Sys2Proof.Proofs

open Sys2Proof.Machine

/-- Settles O45, by induction on the number of steps: progress at each step, and O44 for the state it leaves. -/
theorem stepAlwaysAnswers : Obligations.StepAlwaysAnswers := by
  intro s hs n
  induction n generalizing s with
  | zero => exact ⟨s, rfl, hs⟩
  | succ k ih =>
    obtain ⟨s1, h1⟩ := step_total hs.2
    obtain ⟨t, ht, hinv⟩ := ih s1 (stepKeepsTheInvariant s s1 hs h1)
    exact ⟨t, (runSteps_succ h1 k).trans ht, hinv⟩

/-- Settles O27: both inbound rows are the ten bytes of a frame, run as byte events. -/
theorem inboundFrameCompletes : Obligations.InboundFrameCompletes := by
  intro cmd fb param ck s hs
  exact ⟨finish_rxBytes_total (wireOrder (frameAround cmd fb param ck)) hs,
    finish_rxBytes_total (wireOrder (frameAround Config.peerErrorCmd fb param ck)) hs⟩

end Sys2Proof.Proofs
end

section
/-! Noise before a start marker (spec 20_memory.md R68, 42_receiver.md R172). -/

namespace Sys2Proof.Machine

/-- A byte that is no start marker, taken in awaiting-start: only the inputs, the outputs and the counter change. -/
theorem step_of_noise_byte {s : State} {b : Byte} {rest : List Input} (hs : s.rxs = .awaitingStart)
    (hb : b ≠ Config.startMarker) (h : s.inputs = .event (.rxByte b) :: rest) :
    step s = .next ((s.taking rest).emit {}) := by
  have hdiscard : rxByteEvent b (s.taking rest) = .ok (s.taking rest, {}) := by
    rw [rxByteEvent_awaitingStart b (s := s.taking rest) hs, if_neg hb, discardByte]
  rw [step_of_event h, ← State.taking_rxs s rest, decodeEvent, exec_decodeRxByte, hdiscard, finishOne_ok]

/-- The whole state that a run over noise leaves. -/
theorem runSteps_of_noise (noise : List Byte) (rest : List Input) (s : State) (hs : s.rxs = .awaitingStart)
    (hnoise : ∀ b ∈ noise, b ≠ Config.startMarker)
    (h : s.inputs = noise.map (fun b => .event (.rxByte b)) ++ rest) :
    runSteps noise.length s = .next { s with
      inputs := rest
      outs := if noise = [] then s.outs else [{}]
      tick := s.tick + noise.length } := by
  induction noise generalizing s with
  | nil =>
    subst h
    rfl
  | cons b bs ih =>
    have hstep := step_of_noise_byte hs (hnoise b List.mem_cons_self) h
    have hrest := ih (s := (s.taking _).emit {}) hs (fun c hc => hnoise c (List.mem_cons_of_mem b hc)) rfl
    rw [List.length_cons, runSteps_succ hstep]
    refine hrest.trans ?_
    simp [Nat.add_assoc, Nat.add_comm 1]

end Sys2Proof.Machine

namespace Sys2Proof.Proofs

open Sys2Proof.Machine

/-- Settles O32, from the whole state that the noise leaves. -/
theorem noiseWithoutStartMarkerIsDiscarded : Obligations.NoiseWithoutStartMarkerIsDiscarded := by
  intro noise rest s hs hnoise h
  refine ⟨_, runSteps_of_noise noise rest s hs hnoise h, rfl, hs, rfl, rfl, rfl, fun o ho hne => ?_⟩
  rw [if_neg hne] at ho
  exact List.mem_singleton.1 ho

end Sys2Proof.Proofs
end

section
/-! The two agents share no register (spec 20_memory.md R74): what a receiver event does is a function of the receiver's
registers, and what an encoder event does is the same whatever these hold. -/

namespace Sys2Proof.Machine

/-- The two states agree in all that a receiver event reads: `RXS`, `ACC` and `TIMEOUT_MS`. -/
structure SameReceiver (s u : State) : Prop where
  rxs : u.rxs = s.rxs
  acc : u.acc = s.acc
  timeoutMs : u.timeoutMs = s.timeoutMs

theorem SameReceiver.symm {s u : State} (h : SameReceiver s u) : SameReceiver u s :=
  ⟨h.rxs.symm, h.acc.symm, h.timeoutMs.symm⟩

/-- What a receiver event left, with its registers put into another state. -/
def onto (u : State) (left : State × EventOut) : State × EventOut := (u.setRx left.1.rxs left.1.acc, left.2)

theorem readSlot_congr {s u : State} (h : u.acc = s.acc) (i : Fin 10) : readSlot u i = readSlot s i := by
  rw [readSlot, readSlot, h]

theorem accumulatedChecksum_congr {s u : State} (h : u.acc = s.acc) :
    accumulatedChecksum u = accumulatedChecksum s := by
  simp only [accumulatedChecksum, readSlot_congr h]

theorem completedFrame_congr {s u : State} (h : u.acc = s.acc) : completedFrame u = completedFrame s := by
  simp only [completedFrame, readSlot_congr h]

theorem judgeChecksum_onto {s u : State} (h : u.acc = s.acc) (b : Byte) :
    judgeChecksum b u = (judgeChecksum b s).map (onto u) := by
  rw [judgeChecksum, judgeChecksum, accumulatedChecksum_congr h, readSlot_congr h, h]
  cases accumulatedChecksum s with
  | error f => rfl
  | ok expected =>
    cases readSlot s 7 with
    | error f => rfl
    | ok m =>
      by_cases hk : half m b = expected
      · simp [hk, bind, Except.bind, pure, Except.pure, Except.map, onto]
      · simp [hk, bind, Except.bind, pure, Except.pure, Except.map, onto, raise, State.restart]

theorem deliverFrame_onto {s u : State} (h : u.acc = s.acc) : deliverFrame u = (deliverFrame s).map (onto u) := by
  rw [deliverFrame, deliverFrame, completedFrame_congr h]
  cases completedFrame s <;> rfl

/-- A byte event does the same to the receiver's registers in two states that agree in them. -/
theorem rxByteEvent_onto {s u : State} (h : SameReceiver s u) (b : Byte) :
    rxByteEvent b u = (rxByteEvent b s).map (onto u) := by
  obtain ⟨hr, ha, ht⟩ := h
  cases hs : s.rxs <;> rw [hs] at hr
  case awaitingStart =>
    rw [rxByteEvent_awaitingStart b hr, rxByteEvent_awaitingStart b hs]
    split
    · rw [acceptStart, ht]; rfl
    · simp only [discardByte, Except.map, onto, hs, ← ha, ← hr]; rfl
  case awaitingVersion =>
    rw [rxByteEvent_awaitingVersion b hr, rxByteEvent_awaitingVersion b hs]
    split
    · rw [acceptVersion, ha]; rfl
    · rfl
  case awaitingLength =>
    rw [rxByteEvent_awaitingLength b hr, rxByteEvent_awaitingLength b hs]
    split
    · rw [acceptLength, ha]; rfl
    · rfl
  case awaitingCommand => simp only [rxByteEvent, hr, hs, acceptCommand, ha]; rfl
  case awaitingFeedback => simp only [rxByteEvent, hr, hs, acceptFeedback, ha]; rfl
  case awaitingParamMsb => simp only [rxByteEvent, hr, hs, acceptParamMsb, ha]; rfl
  case awaitingParamLsb => simp only [rxByteEvent, hr, hs, acceptParamLsb, ha]; rfl
  case awaitingChecksumMsb => simp only [rxByteEvent, hr, hs, acceptChecksumMsb, ha]; rfl
  case awaitingChecksumLsb =>
    rw [rxByteEvent_awaitingChecksumLsb b hr, rxByteEvent_awaitingChecksumLsb b hs, judgeChecksum_onto ha]
  case awaitingEnd =>
    rw [rxByteEvent_awaitingEnd b hr, rxByteEvent_awaitingEnd b hs]
    split
    · exact deliverFrame_onto ha
    · rfl

/-- The same for a poll (R182). -/
theorem rxIdleEvent_onto {s u : State} (h : SameReceiver s u) (expired : Bool) :
    rxIdleEvent expired u = onto u (rxIdleEvent expired s) := by
  rw [rxIdleEvent, rxIdleEvent, h.rxs]
  split
  · rfl
  · rw [onto, ← h.rxs, ← h.acc]; rfl

/-- A receiver event that answers in one state answers in any other with the same receiver, and leaves the same
registers and outputs there. -/
theorem exec_rcvEvent_onto {f : Event} {s u t : State} (hf : rcvEvent f = true) (h : SameReceiver s u)
    (ht : exec (decodeEvent s.rxs f) s = .next t) :
    exec (decodeEvent u.rxs f) u = .next { u.setRx t.rxs t.acc with outs := t.outs } := by
  cases f <;> simp only [rcvEvent, Bool.false_eq_true] at hf
  case rxByte b =>
    rw [decodeEvent, exec_decodeRxByte] at ht ⊢
    rw [rxByteEvent_onto h]
    cases hb : rxByteEvent b s with
    | error r => rw [hb] at ht; cases ht
    | ok left => rw [hb] at ht; cases ht; rfl
  case rxIdle expired =>
    cases (exec_rxIdle expired s).symm.trans ht
    rw [decodeEvent, exec_rxIdle, rxIdleEvent_onto h]
    rfl
  case rxLoad d => cases ht; rfl
  case rxAbort => cases ht; rfl

/-- The parameter of a listed request is a function of its operands alone (R142): the same in every state. -/
theorem exec_decodeRequest_listed_everywhere {op : Byte} (h : op ∈ listedOps) (a : Half) (b : Byte) :
    ∃ p, ∀ s, exec (decodeRequest op a b) s = .next ((encodeCommon op p s).emit {}) := by
  simp only [listedOps, List.mem_cons, List.not_mem_nil, or_false] at h
  rcases h with rfl | rfl | rfl | rfl | rfl | rfl | rfl | rfl | rfl | rfl | rfl | rfl <;> exact ⟨_, fun _ => rfl⟩

/-- An encoder event answers, leaves what a receiver event reads alone, and does the same beside any values of the
receiver's registers. -/
theorem exec_encoderEvent_setRx {e : Event} (he : encoderEvent e = true) (s : State) :
    ∃ u x, SameReceiver s u ∧ (∀ r, exec (decodeEvent r e) s = .next (u.emit x)) ∧
      ∀ r rxs acc outs,
        exec (decodeEvent r e) { s.setRx rxs acc with outs := outs } = .next ((u.setRx rxs acc).emit x) := by
  cases e <;> simp only [encoderEvent, Bool.false_eq_true] at he
  case enc op a b =>
    by_cases hop : op ∈ listedOps
    · obtain ⟨p, hp⟩ := exec_decodeRequest_listed_everywhere hop a b
      exact ⟨encodeCommon op p s, {}, ⟨rfl, rfl, rfl⟩, fun _ => hp s, fun _ _ _ _ => hp _⟩
    · exact ⟨s, { encRefused := true }, ⟨rfl, rfl, rfl⟩, fun _ => exec_decodeRequest_unlisted hop a b s,
        fun _ _ _ _ => exec_decodeRequest_unlisted hop a b _⟩
  case send => exact ⟨s.sendFrame, {}, ⟨rfl, rfl, rfl⟩, fun _ => exec_txSend s, fun _ _ _ _ => exec_txSend _⟩
  case getFrameBytes =>
    exact ⟨s, { frameBytes := some s.outBytes }, ⟨rfl, rfl, rfl⟩, fun _ => exec_getFrameBytes s,
      fun _ _ _ _ => exec_getFrameBytes _⟩
  case getFrameRecord =>
    exact ⟨s, { frameRecord := some (recordOf s.outBytes) }, ⟨rfl, rfl, rfl⟩, fun _ => exec_getFrameRecord s,
      fun _ _ _ _ => exec_getFrameRecord _⟩

/-- The outputs of the step before are no part of what a receiver event reads. -/
theorem SameReceiver.emit {s u : State} (h : SameReceiver s u) (o : EventOut) : SameReceiver s (u.emit o) :=
  ⟨h.rxs, h.acc, h.timeoutMs⟩

end Sys2Proof.Machine

namespace Sys2Proof.Proofs

open Sys2Proof.Machine

/-- Settles O48. With `u` what the encoder event makes of `s`, the receiver event changes the same registers beside `s`
as beside `u`, and the encoder event gives `u` again beside the changed ones. -/
theorem agentsCommute : Obligations.AgentsCommute := by
  intro e f s he hf
  obtain ⟨u, x, hsame, henc, henc_after⟩ := exec_encoderEvent_setRx he s
  have hsame : SameReceiver s (u.emit x) := hsame.emit x
  refine ⟨⟨?encoderFirst, ?receiverFirst⟩, ?agree⟩
  case encoderFirst =>
    rintro ⟨s1, s2, h1, h2⟩
    cases (henc s.rxs).symm.trans h1
    exact ⟨_, _, exec_rcvEvent_onto hf hsame.symm h2, henc_after ..⟩
  case receiverFirst =>
    rintro ⟨t1, t2, h1, -⟩
    exact ⟨_, _, henc s.rxs, exec_rcvEvent_onto hf hsame h1⟩
  case agree =>
    intro s1 s2 t1 t2 hs1 hs2 ht1 ht2
    cases (henc s.rxs).symm.trans hs1
    cases (exec_rcvEvent_onto hf hsame ht1).symm.trans hs2
    obtain ⟨o, ht1_eq, -⟩ := exec_rcvEvent_frame hf ht1
    rw [ht1_eq] at ht2
    cases (henc_after _ t1.rxs t1.acc [o]).symm.trans ht2
    exact ⟨rfl, rfl, rfl⟩

end Sys2Proof.Proofs
end

section
/-! The RXEVT table (spec 30_encoding.md R113, 10_state.md R32): its rows are a state's own byte, or any byte of a
state, and a key fits no other state's rows. -/

namespace Sys2Proof

open Machine

/-- A row without an operand fits one key. -/
theorem key_fits_exact (r r' : RxState) (b b' : Byte) :
    (rxKey r b &&& 0xFFF#12 == rxKey r' b') = decide (r = r' ∧ b = b') := by
  have hmask : rxKey r b &&& 0xFFF#12 = rxKey r b := BitVec.and_allOnes
  rw [hmask, Bool.eq_iff_iff, beq_iff_eq, decide_eq_true_iff, rxKey_inj]

/-- A row with a byte operand fits the keys of one state. -/
theorem key_fits_state (r r' : RxState) (b : Byte) : (rxKey r b &&& 0xF00#12 == rxKey r' 0#8) = decide (r = r') := by
  have hstate : r.code &&& keyState 0xF00#12 = r.code := BitVec.and_allOnes
  have hbyte : b &&& keyByte 0xF00#12 = 0#8 := BitVec.and_zero
  rw [key_fits, hstate, hbyte, keyState_rxKey, keyByte_rxKey, Bool.eq_iff_iff, Bool.and_eq_true, beq_iff_eq,
    decide_eq_true_iff, code_inj]
  exact and_iff_left BEq.rfl

/-- The patterns of the table are keys (R113). -/
theorem rxRows_eq : rxRows =
    [⟨rxKey .awaitingStart Config.startMarker, 0xFFF#12, fun _ => .rxStart⟩,
     ⟨rxKey .awaitingStart 0#8, 0xF00#12, .rxDiscard⟩,
     ⟨rxKey .awaitingVersion Config.version, 0xFFF#12, fun _ => .rxVersionOk⟩,
     ⟨rxKey .awaitingVersion 0#8, 0xF00#12, .rxVersionBad⟩,
     ⟨rxKey .awaitingLength Config.length, 0xFFF#12, fun _ => .rxLengthOk⟩,
     ⟨rxKey .awaitingLength 0#8, 0xF00#12, .rxLengthBad⟩,
     ⟨rxKey .awaitingCommand 0#8, 0xF00#12, .rxCommand⟩,
     ⟨rxKey .awaitingFeedback 0#8, 0xF00#12, .rxFeedback⟩,
     ⟨rxKey .awaitingParamMsb 0#8, 0xF00#12, .rxParamMsb⟩,
     ⟨rxKey .awaitingParamLsb 0#8, 0xF00#12, .rxParamLsb⟩,
     ⟨rxKey .awaitingChecksumMsb 0#8, 0xF00#12, .rxChecksumMsb⟩,
     ⟨rxKey .awaitingChecksumLsb 0#8, 0xF00#12, .rxChecksumLsb⟩,
     ⟨rxKey .awaitingEnd Config.endMarker, 0xFFF#12, fun _ => .rxEndOk⟩,
     ⟨rxKey .awaitingEnd 0#8, 0xF00#12, .rxEndBad⟩] := rfl

/-- The table read row by row is the byte event of the key's state. A state with one good byte has that byte's row
before its row for the other bytes (R172 to R181). -/
theorem decodeRxKey_rxKey (r : RxState) (b : Byte) : decodeRxKey (rxKey r b) = .ok (decodeRxByte r b) := by
  rw [decodeRxKey, rxRows_eq]
  cases r
  case awaitingStart | awaitingVersion | awaitingLength | awaitingEnd =>
    rw [decodeRxByte]
    split_ifs with hb <;> simp [List.find?, key_fits_exact, key_fits_state, hb]
  all_goals simp [List.find?, key_fits_exact, key_fits_state, decodeRxByte]

/-- A key whose code is a state's is that state's key. -/
theorem exists_rxKey_of_lt {k : RxKey} (h : (keyState k).toNat < 10) : ∃ r, k = rxKey r (keyByte k) := by
  have hcodes : ∀ c : BitVec 4, c.toNat < 10 → (RxState.ofCode c).map RxState.code = some c := by decide
  obtain ⟨r, -, hr⟩ := Option.map_eq_some_iff.1 (hcodes (keyState k) h)
  refine ⟨r, ?_⟩
  rw [rxKey, hr]
  exact (BitVec.extractLsb'_eq_self ..).symm.trans (extract_join k 0 4).symm

/-- No row is for a code that is no state (R32): every row compares the whole code, with one that is below 10. -/
theorem decodeRxKey_of_noState {k : RxKey} (h : 10 ≤ (keyState k).toNat) : decodeRxKey k = .error .noSuchState := by
  have hrows : ∀ row ∈ rxRows, keyState row.mask = BitVec.allOnes 4 ∧ (keyState row.pattern).toNat < 10 := by
    decide
  have hnone : rxRows.find? (fun row => k &&& row.mask == row.pattern) = none := by
    refine List.find?_eq_none.2 fun row hrow hfits => ?_
    obtain ⟨hmask, hpattern⟩ := hrows row hrow
    have hstate : keyState (k &&& row.mask) = keyState k &&& keyState row.mask := BitVec.extractLsb'_and ..
    rw [beq_iff_eq.1 hfits, hmask, BitVec.and_allOnes] at hstate
    rw [hstate] at hpattern
    omega
  rw [decodeRxKey, hnone]

end Sys2Proof

namespace Sys2Proof.Proofs

open Sys2Proof.Machine

/-- Settles O57: the rows of each state for the states' keys, and the codes that the rows compare for the others. -/
theorem keyTableIsTheByteEvent : Obligations.KeyTableIsTheByteEvent :=
  ⟨decodeRxKey_rxKey, fun _ h => decodeRxKey_of_noState h⟩

end Sys2Proof.Proofs
end

section
/-! The words of the four formats and the instructions they decode to are each other's inverse (spec 30_encoding.md R90,
R100, R113). -/

namespace Sys2Proof

open Machine

/-- Every request is the word of its instruction, the unlisted ones included (R100). -/
theorem encode_decodeRequest (op : Byte) (a : Half) (b : Byte) :
    encode (decodeRequest op a b) = some (.request op a b) := by
  by_cases h : op ∈ listedOps
  · simp only [listedOps, List.mem_cons, List.not_mem_nil, or_false] at h
    rcases h with rfl | rfl | rfl | rfl | rfl | rfl | rfl | rfl | rfl | rfl | rfl | rfl <;> rfl
  · rw [decodeRequest_unlisted h]
    rfl

/-- Every key of a state is the word of its byte event's instruction (R113). -/
theorem encode_decodeRxByte (r : RxState) (b : Byte) : encode (decodeRxByte r b) = some (.rxEvent (rxKey r b)) := by
  cases r
  case awaitingStart | awaitingVersion | awaitingLength | awaitingEnd =>
    rw [decodeRxByte]
    split
    case isTrue hb => rw [hb]; rfl
    case isFalse => rfl
  all_goals rfl

/-- The word of an inbound frame with the fixed markers is the frame itself (R90). -/
theorem encode_decodeInbound_frameAround {cmd fb : Byte} {param ck : Half} {i : Instr}
    (h : decodeInbound (wireWord (frameAround cmd fb param ck)) = .ok i) :
    encode i = some (.inbound (wireWord (frameAround cmd fb param ck))) := by
  rw [decodeInbound_frameAround] at h
  cases h
  split
  case isTrue hc => rw [hc]; rfl
  case isFalse => rfl

/-- A frame word with the four fixed bytes is a frame around its contents and its checksum (R90 to R98). -/
theorem eq_frameAround_of_markers {F : FrameWord} (hstart : wireByte F 0 = Config.startMarker)
    (hver : wireByte F 1 = Config.version) (hlen : wireByte F 2 = Config.length)
    (hfin : wireByte F 9 = Config.endMarker) :
    F = wireWord (frameAround (wireByte F 3) (wireByte F 4) (half (wireByte F 5) (wireByte F 6))
      (half (wireByte F 7) (wireByte F 8))) := by
  rw [frameAround, hi_half, lo_half, hi_half, lo_half, ← hstart, ← hver, ← hlen, ← hfin]
  exact (wireWord_wireBytes F).symm

/-- A fixed byte of a row is that byte of every word that fits the row. -/
theorem wireByte_of_fits {F m p : FrameWord} (h : (F &&& m == p) = true) {k : Fin 10}
    (hm : wireByte m k = BitVec.allOnes 8) : wireByte F k = wireByte p k := by
  rw [← beq_iff_eq.1 h, wireByte_and, hm, BitVec.and_allOnes]

/-- An inbound word that decodes has the four fixed bytes: both inbound rows compare them. -/
theorem exists_frameAround_of_decodeInbound {F : FrameWord} {i : Instr} (h : decodeInbound F = .ok i) :
    ∃ cmd fb param ck, F = wireWord (frameAround cmd fb param ck) := by
  have hmask : ∀ row ∈ inboundRows, ∀ k ∈ [(0 : Fin 10), 1, 2, 9], wireByte row.mask k = BitVec.allOnes 8 := by
    decide
  have hpattern : ∀ row ∈ inboundRows, wireByte row.pattern 0 = Config.startMarker ∧
      wireByte row.pattern 1 = Config.version ∧ wireByte row.pattern 2 = Config.length ∧
      wireByte row.pattern 9 = Config.endMarker := by decide
  cases hfind : inboundRows.find? (fun row => F &&& row.mask == row.pattern) with
  | none => simp [decodeInbound, firstRow, hfind] at h
  | some row =>
    have hrow := List.mem_of_find?_eq_some hfind
    have hfits := List.find?_some hfind
    have hfixed (k : Fin 10) (hk : k ∈ [(0 : Fin 10), 1, 2, 9]) : wireByte F k = wireByte row.pattern k :=
      wireByte_of_fits hfits (hmask row hrow k hk)
    obtain ⟨hstart, hver, hlen, hfin⟩ := hpattern row hrow
    exact ⟨_, _, _, _, eq_frameAround_of_markers ((hfixed 0 (by decide)).trans hstart)
      ((hfixed 1 (by decide)).trans hver) ((hfixed 2 (by decide)).trans hlen) ((hfixed 9 (by decide)).trans hfin)⟩

end Sys2Proof

namespace Sys2Proof.Proofs

open Sys2Proof.Machine

/-- Settles O55, by the format of the instruction's word. What `WellFormed` asks of an instruction keeps the rows before
its own from taking its word. -/
theorem decodeOfEncode : Obligations.DecodeOfEncode := by
  intro i w hwf h
  cases i
  case encRefused op a b =>
    cases h
    have hop : op ∉ listedOps := by simpa [Instr.WellFormed, Instr.wellFormed] using hwf
    rw [decode, decodeRequest_unlisted hop]
  case peerErrorFrame fb param ck =>
    cases h
    rw [decode, decodeInbound_frameAround, if_pos rfl]
  case goodFrame cmd fb param ck =>
    cases h
    have hcmd : cmd ≠ Config.peerErrorCmd := bne_iff_ne.1 (Bool.and_eq_true_iff.1 hwf).1
    rw [decode, decodeInbound_frameAround, if_neg hcmd]
  case rxDiscard b | rxVersionBad b | rxLengthBad b | rxEndBad b =>
    cases h
    rw [decode, decodeRxKey_rxKey, decodeRxByte, if_neg (bne_iff_ne.1 hwf)]
  case rxStart | rxVersionOk | rxLengthOk | rxEndOk =>
    cases h
    rw [decode, decodeRxKey_rxKey, decodeRxByte, if_pos rfl]
  case rxCommand | rxFeedback | rxParamMsb | rxParamLsb | rxChecksumMsb | rxChecksumLsb =>
    cases h
    exact decodeRxKey_rxKey _ _
  case rxIdle | rxLoad | rxAbort | txSend | getFrameBytes | getFrameRecord | receiveFrame | reset | chk => cases h
  all_goals
    cases h
    rfl

/-- Settles O56, by format: each decoder's answer has the decoded word as its word. -/
theorem encodeOfDecode : Obligations.EncodeOfDecode := by
  intro w i hw h
  cases w with
  | request op a b =>
    cases h
    exact encode_decodeRequest op a b
  | outbound F => exact absurd rfl (hw F)
  | inbound F =>
    obtain ⟨cmd, fb, param, ck, rfl⟩ := exists_frameAround_of_decodeInbound h
    exact encode_decodeInbound_frameAround h
  | rxEvent k =>
    rw [decode] at h
    by_cases hk : (keyState k).toNat < 10
    · obtain ⟨r, hr⟩ := exists_rxKey_of_lt hk
      rw [hr, decodeRxKey_rxKey] at h
      cases h
      rw [encode_decodeRxByte, ← hr]
    · rw [decodeRxKey_of_noState (Nat.le_of_not_lt hk)] at h
      cases h

end Sys2Proof.Proofs
end

section
/-! An RXEVT instruction and the state of its key (spec 30_encoding.md R113). -/

namespace Sys2Proof.Machine

theorem exec_of_encode_rxEvent {i : Instr} {k : RxKey} (h : encode i = some (.rxEvent k)) :
    ∃ r b, k = rxKey r b ∧ ∀ s, ∃ ran, exec i s = inState r s ran := by
  cases i <;> cases h
  all_goals exact ⟨_, _, rfl, fun _ => ⟨_, rfl⟩⟩

theorem inState_of_ne {r : RxState} {s : State} (h : s.rxs ≠ r) (ran : RanOne) :
    inState r s ran = .refused .selectorMismatch := if_neg h

end Sys2Proof.Machine

namespace Sys2Proof.Proofs

open Sys2Proof.Machine

/-- Settles O20: the instruction of a key runs in the one state that the key determines. -/
theorem rxInstructionBelongsToItsState : Obligations.RxInstructionBelongsToItsState := by
  intro i r b s h hs
  obtain ⟨r', b', hkey, hexec⟩ := exec_of_encode_rxEvent h
  obtain ⟨rfl, -⟩ := rxKey_inj.1 hkey
  obtain ⟨ran, hran⟩ := hexec s
  rw [hran, inState_of_ne hs]

end Sys2Proof.Proofs
end

section
/-! The outbound rows (spec 30_encoding.md R104): a row fits the frames of its operation whose parameter is in the row's
range, and the encoder's clamps keep the parameter in it (R101, R102). -/

namespace Sys2Proof.Machine

/-- No bit is set above the lowest `n` exactly when the value is below `2 ^ n`. -/
theorem and_allOnes_shiftLeft_eq_zero {w : Nat} (x : BitVec w) (n : Nat) :
    x &&& (BitVec.allOnes w <<< n) = 0#w ↔ x.toNat < 2 ^ n := by
  have hle : x.toNat / 2 ^ n * 2 ^ n ≤ x.toNat := Nat.div_mul_le_self ..
  rw [← BitVec.shiftLeft_ushiftRight, ← BitVec.toNat_inj, BitVec.toNat_shiftLeft, BitVec.toNat_ushiftRight,
    Nat.shiftLeft_eq, Nat.shiftRight_eq_div_pow, Nat.mod_eq_of_lt (hle.trans_lt x.isLt), BitVec.toNat_ofNat,
    Nat.zero_mod, Nat.mul_eq_zero, or_iff_left (Nat.two_pow_pos n).ne', Nat.div_eq_zero_iff,
    or_iff_right (Nat.two_pow_pos n).ne']

theorem hi_and (p q : Half) : hi (p &&& q) = hi p &&& hi q := BitVec.extractLsb'_and ..

theorem lo_and (p q : Half) : lo (p &&& q) = lo p &&& lo q := BitVec.extractLsb'_and ..

/-- A 16-bit value is 0 exactly when both bytes are. -/
theorem half_eq_zero {p : Half} : p = 0#16 ↔ hi p = 0#8 ∧ lo p = 0#8 := by
  rw [← half_inj, half_hi_lo]
  rfl

theorem trackParam_lt (a : Half) : (trackParam a).toNat < 2 ^ 12 := by
  rw [trackParam, umin_toNat]
  exact (Nat.min_le_right ..).trans_lt (by decide)

theorem volumeParam_lt (a : Half) : (volumeParam a).toNat < 2 ^ 5 := by
  rw [volumeParam, umin_toNat]
  exact (Nat.min_le_right ..).trans_lt (by decide)

theorem sourceParam_lt (a : Half) : (sourceParam a).toNat < 2 ^ 3 := by
  rw [sourceParam]
  split
  case isTrue h => rcases h with rfl | rfl | rfl | rfl <;> decide
  case isFalse => decide

theorem folderNumber_le (a : Half) : (folderNumber a).toNat ≤ 99 := by
  rw [folderNumber, clamp_toNat]
  exact Nat.min_le_right ..

/-- The folder number fits the byte that the frame has for it (R103). -/
theorem setWidth_lo_folderNumber (a : Half) : (lo (folderNumber a)).setWidth 16 = folderNumber a := by
  have := folderNumber_le a
  apply BitVec.eq_of_toNat_eq
  rw [BitVec.toNat_setWidth, lo_toNat]
  omega

theorem folderParam_lt (a : Half) (b : Byte) : (folderParam a b).toNat < 2 ^ 15 := by
  have := folderNumber_le a
  have := (folderTrack b).isLt
  rw [folderParam, half_toNat, lo_toNat]
  omega

end Sys2Proof.Machine

namespace Sys2Proof

open Machine

/-- What one outbound row says: the operation number, how many low bits of the parameter are open, the instruction. -/
structure OutboundOp where
  op : Byte
  paramBits : Nat
  make : Slots Byte → Instr

/-- The row over `F[79:0]`: the markers, the command byte, the feedback byte but for its lowest bit, and the closed bits
of the parameter, which are 0, are fixed; the checksum is open. -/
def OutboundOp.row (e : OutboundOp) : FrameRow where
  pattern := wireWord (frameAround e.op 0#8 0#16 0#16)
  mask :=
    let closed : Half := BitVec.allOnes 16 <<< e.paramBits
    wireWord ⟨0xFF#8, 0xFF#8, 0xFF#8, 0xFF#8, 0xFE#8, hi closed, lo closed, 0x00#8, 0x00#8, 0xFF#8⟩
  make := e.make

/-- The twelve operations in the table's order. -/
def outboundOps : List OutboundOp :=
  [⟨0x01#8, 0, fun _ => .playNext 0#16 0#8⟩,
   ⟨0x02#8, 0, fun _ => .playPrevious 0#16 0#8⟩,
   ⟨0x03#8, 12, fun d => .playTrack (half d.pm d.pl) 0#8⟩,
   ⟨0x04#8, 0, fun _ => .incrementVolume 0#16 0#8⟩,
   ⟨0x05#8, 0, fun _ => .decrementVolume 0#16 0#8⟩,
   ⟨0x06#8, 5, fun d => .setVolume (half d.pm d.pl) 0#8⟩,
   ⟨0x09#8, 3, fun d => .setPlaybackSource (half d.pm d.pl) 0#8⟩,
   ⟨0x0A#8, 0, fun _ => .enterStandby 0#16 0#8⟩,
   ⟨0x0B#8, 0, fun _ => .enterNormal 0#16 0#8⟩,
   ⟨0x0C#8, 0, fun _ => .factoryReset 0#16 0#8⟩,
   ⟨0x0E#8, 0, fun _ => .pause 0#16 0#8⟩,
   ⟨0x0F#8, 15, fun d => .playFolderTrack (d.pm.setWidth 16) d.pl⟩]

theorem outboundRows_eq : outboundRows = outboundOps.map OutboundOp.row := rfl

/-- A frame around a feedback byte of 0 or 1 fits the row of its command byte when its parameter is in the row's range,
and no other row. -/
theorem fits_outboundRow (e : OutboundOp) (cmd : Byte) (feedback : Bool) (p ck : Half) :
    (wireWord (frameAround cmd (feedbackByte feedback) p ck) &&& e.row.mask == e.row.pattern) =
      (e.op == cmd && decide (p.toNat < 2 ^ e.paramBits)) := by
  have hfb : feedbackByte feedback &&& 0xFE#8 = 0#8 := by cases feedback <;> decide
  have hmarkers : Config.startMarker &&& 0xFF#8 = Config.startMarker ∧ Config.version &&& 0xFF#8 = Config.version ∧
      Config.length &&& 0xFF#8 = Config.length ∧ Config.endMarker &&& 0xFF#8 = Config.endMarker := by decide
  obtain ⟨hstart, hver, hlen, hfin⟩ := hmarkers
  have hcmd : cmd &&& 0xFF#8 = cmd := BitVec.and_allOnes
  have hzero : hi 0#16 = 0#8 ∧ lo 0#16 = 0#8 := by decide
  rw [fits_bytewise, Bool.eq_iff_iff]
  simp only [OutboundOp.row, wireByte_wireWord, slotAt, frameAround, hstart, hver, hlen, hfin, hcmd, hfb, hzero,
    BitVec.and_zero, Bool.and_eq_true, beq_iff_eq, decide_eq_true_iff, ← hi_and, ← lo_and,
    ← and_allOnes_shiftLeft_eq_zero, half_eq_zero, true_and, and_true, and_assoc, eq_comm (a := cmd)]

/-- A frame with an operation's number decodes by that operation's row: no two rows have the same number. -/
theorem decodeOutbound_frameAround {op : Byte} {e : OutboundOp} {p : Half}
    (he : outboundOps.find? (fun e => e.op == op) = some e) (hp : p.toNat < 2 ^ e.paramBits) (feedback : Bool)
    (ck : Half) :
    decodeOutbound (wireWord (frameAround op (feedbackByte feedback) p ck)) =
      .ok (e.make (frameAround op (feedbackByte feedback) p ck)) := by
  have hfind : outboundOps.find? (fun e => e.op == op && decide (p.toNat < 2 ^ e.paramBits)) = some e := by
    obtain ⟨hop, before, after, hops, hbefore⟩ := List.find?_eq_some_iff_append.1 he
    refine List.find?_eq_some_iff_append.2 ⟨?_, before, after, hops, fun x hx => ?_⟩
    · rw [hop, decide_eq_true hp, Bool.and_self]
    · rw [Bool.not_and, hbefore x hx, Bool.true_or]
  have hrow : outboundRows.find? (fun r =>
      wireWord (frameAround op (feedbackByte feedback) p ck) &&& r.mask == r.pattern) = some e.row := by
    rw [outboundRows_eq, List.find?_map]
    simp only [Function.comp_def, fits_outboundRow, hfind, Option.map_some]
  rw [decodeOutbound, firstRow, hrow, Option.map_some, wireBytes_wireWord]
  rfl

/-- The instruction runs as the encode operation `op` with parameter `p`, the FRAME80 word of its row is the frame of
`op` and `p`, and that frame decodes to its operands as the frame carries them. -/
structure EncodesAs (i : Instr) (op : Byte) (p : Half) : Prop where
  exec_eq : ∀ s, exec i s = encodeEvent op p s
  encodeFrame_eq : ∀ feedback, encodeFrame feedback i = some (wireWord (frameFor op (feedbackByte feedback) p))
  decodeOutbound_eq : ∀ feedback,
    decodeOutbound (wireWord (frameFor op (feedbackByte feedback) p)) = .ok i.carried

theorem EncodesAs.of_row {i : Instr} {op : Byte} {p : Half} {e : OutboundOp}
    (he : outboundOps.find? (fun e => e.op == op) = some e) (hp : p.toNat < 2 ^ e.paramBits)
    (hcarried : ∀ fb ck, e.make (frameAround op fb p ck) = i.carried) (hexec : ∀ s, exec i s = encodeEvent op p s)
    (hframe : ∀ feedback, encodeFrame feedback i = some (wireWord (frameFor op (feedbackByte feedback) p))) :
    EncodesAs i op p where
  exec_eq := hexec
  encodeFrame_eq := hframe
  decodeOutbound_eq feedback := by rw [frameFor, decodeOutbound_frameAround he hp, hcarried]

/-- The twelve encode operations: eight have no parameter, the others a clamped one (R101 to R104). -/
theorem exists_encodesAs {i : Instr} (h : (encodeOp i).isSome) : ∃ op p, EncodesAs i op p := by
  cases i
  case playNext | playPrevious | incrementVolume | decrementVolume | enterStandby | enterNormal | factoryReset
      | pause =>
    exact ⟨_, _, .of_row rfl (Nat.two_pow_pos _) (fun _ _ => rfl) (fun _ => rfl) fun _ => rfl⟩
  case playTrack a b =>
    exact ⟨_, _, .of_row rfl (trackParam_lt a) (fun _ _ => congrArg (Instr.playTrack · 0#8) (half_hi_lo _))
      (fun _ => rfl) fun _ => rfl⟩
  case setVolume a b =>
    exact ⟨_, _, .of_row rfl (volumeParam_lt a) (fun _ _ => congrArg (Instr.setVolume · 0#8) (half_hi_lo _))
      (fun _ => rfl) fun _ => rfl⟩
  case setPlaybackSource a b =>
    exact ⟨_, _, .of_row rfl (sourceParam_lt a) (fun _ _ => congrArg (Instr.setPlaybackSource · 0#8) (half_hi_lo _))
      (fun _ => rfl) fun _ => rfl⟩
  case playFolderTrack a b =>
    have hcarried : Instr.playFolderTrack ((hi (folderParam a b)).setWidth 16) (lo (folderParam a b)) =
        .playFolderTrack (folderNumber a) (folderTrack b) := by
      rw [folderParam, hi_half, lo_half, setWidth_lo_folderNumber]
    exact ⟨_, _, .of_row rfl (folderParam_lt a b) (fun _ _ => hcarried) (fun _ => rfl) fun _ => rfl⟩
  all_goals cases h

/-- `OUT` holds the frame of the encoded operation (R140). -/
theorem outBytes_encodeCommon (op : Byte) (p : Half) (s : State) :
    (encodeCommon op p s).outBytes = frameFor op (feedbackByte s.feedback) p := rfl

end Sys2Proof

namespace Sys2Proof.Proofs

open Sys2Proof.Machine

/-- Settles O11: the operation's number and parameter give the frame in `OUT`, the row's word, and its decoding. -/
theorem encodedFrameIsTheTablesWord : Obligations.EncodedFrameIsTheTablesWord := by
  intro i s h
  obtain ⟨op, p, hi⟩ := exists_encodesAs h
  refine ⟨(encodeCommon op p s).emit {}, hi.exec_eq s, ?_, ?_⟩
  · rw [State.emit_outBytes, outBytes_encodeCommon, hi.encodeFrame_eq]
  · rw [State.emit_outBytes, outBytes_encodeCommon, hi.decodeOutbound_eq]

end Sys2Proof.Proofs
end

section
/-! Words written out from the table (spec 30_encoding.md R104, R113). -/

namespace Sys2Proof.Proofs

open Sys2Proof.Machine

/-- Settles O58, by evaluating the tables on each word. -/
theorem wordsDecode : Obligations.WordsDecode := by
  refine ⟨?playTrack, ?playFolderTrack, ?peerError, ?goodFrame, ?start, ?versionBad, ?checksumLsb, ?noState⟩
  all_goals decide

end Sys2Proof.Proofs
end

section
/-! The checksum engine (spec 40_checksum.md): `CHK` through the sum of the six content bytes, which is too small to
wrap in 16 bits (R132). -/

namespace Sys2Proof.Machine

/-- The number that `CHK` negates (R130). -/
def contentSum (v l c f pm pl : Byte) : Nat :=
  v.toNat + l.toNat + c.toNat + f.toNat + pm.toNat + pl.toNat

section
variable (v l c f pm pl : Byte)

theorem contentSum_le : contentSum v l c f pm pl ≤ 1530 := by
  have := v.isLt; have := l.isLt; have := c.isLt; have := f.isLt; have := pm.isLt; have := pl.isLt
  unfold contentSum
  omega

theorem contentSum_eq_zero_iff :
    contentSum v l c f pm pl = 0 ↔ v = 0#8 ∧ l = 0#8 ∧ c = 0#8 ∧ f = 0#8 ∧ pm = 0#8 ∧ pl = 0#8 := by
  simp only [contentSum, Nat.add_eq_zero_iff, ← BitVec.toNat_inj, BitVec.toNat_ofNat, Nat.zero_mod, and_assoc]

/-- `CHK` is a function of the sum alone (R136). -/
theorem chk_eq_ofNat : chk v l c f pm pl = BitVec.ofNat 16 (65536 - contentSum v l c f pm pl) := by
  apply BitVec.eq_of_toNat_eq
  rw [chk_toNat, BitVec.toNat_ofNat, contentSum]

/-- Only the negation of the sum 0 wraps (R133). -/
theorem chk_toNat_eq_ite : (chk v l c f pm pl).toNat =
    if contentSum v l c f pm pl = 0 then 0 else 65536 - contentSum v l c f pm pl := by
  have := contentSum_le v l c f pm pl
  rw [chk_eq_ofNat, BitVec.toNat_ofNat]
  split <;> omega

/-- A 16-bit value is the checksum exactly when it cancels the sum, the other way to check a frame (R133). -/
theorem eq_chk_iff (k : Half) :
    k = chk v l c f pm pl ↔ (contentSum v l c f pm pl + k.toNat) % 65536 = 0 := by
  have := contentSum_le v l c f pm pl
  have := k.isLt
  rw [← BitVec.toNat_inj, chk_toNat_eq_ite]
  split <;> omega

theorem chk_eq_zero_iff : chk v l c f pm pl = 0#16 ↔ contentSum v l c f pm pl = 0 := by
  have := contentSum_le v l c f pm pl
  rw [eq_comm, eq_chk_iff, BitVec.toNat_ofNat]
  omega

/-- Behind the good version and length the sum is never 0, and four bytes are left to vary. -/
theorem contentSum_goodHeader :
    261 ≤ contentSum 0xFF#8 0x06#8 c f pm pl ∧ contentSum 0xFF#8 0x06#8 c f pm pl ≤ 1281 := by
  have := c.isLt; have := f.isLt; have := pm.isLt; have := pl.isLt
  simp only [contentSum, BitVec.toNat_ofNat]
  omega

end

/-- The MSB of a 16-bit value in the range of the good frames' checksums (R135). -/
theorem hi_mem_of_range {k : Half} (hlow : 0xFAFF ≤ k.toNat) (hhigh : k.toNat ≤ 0xFEFB) :
    hi k ∈ [0xFA#8, 0xFB#8, 0xFC#8, 0xFD#8, 0xFE#8] := by
  simp only [List.mem_cons, List.not_mem_nil, or_false, ← BitVec.toNat_inj, hi_toNat, BitVec.toNat_ofNat]
  omega

/-- State 7 stores any byte (R179). -/
theorem exec_rxChecksumMsb {s : State} (h : s.rxs = .awaitingChecksumMsb) (b : Byte) :
    exec (.rxChecksumMsb b) s = finishOne (.ok (acceptChecksumMsb b s)) := by
  show inState .awaitingChecksumMsb s _ = _
  rw [← h, inState_same]

end Sys2Proof.Machine

namespace Sys2Proof.Proofs

open Sys2Proof.Machine

/-- Settles O1: the sum does not wrap, so its negation is 65536 less it, and the one 16-bit value that cancels it. -/
theorem chkNegatesTheSum : Obligations.ChkNegatesTheSum := by
  rintro v l c f pm pl _ rfl
  exact ⟨chk_toNat_eq_ite v l c f pm pl, (eq_chk_iff v l c f pm pl _).1 rfl, eq_chk_iff v l c f pm pl⟩

/-- Settles O2: the bounds of the sum, over all bytes and behind the good version and length, turned round by the
negation. -/
theorem chkRange : Obligations.ChkRange := by
  refine ⟨?allInputs, ?goodHeader, ?receiver⟩
  case allInputs =>
    intro v l c f pm pl
    have hle := contentSum_le v l c f pm pl
    rw [chk_eq_zero_iff, chk_toNat_eq_ite]
    split <;> omega
  case goodHeader =>
    intro c f pm pl
    obtain ⟨hlow, hhigh⟩ := contentSum_goodHeader c f pm pl
    have hchk := chk_toNat_eq_ite 0xFF#8 0x06#8 c f pm pl
    rw [if_neg (by omega)] at hchk
    have hmin : 0xFAFF ≤ (chk 0xFF#8 0x06#8 c f pm pl).toNat := by omega
    have hmax : (chk 0xFF#8 0x06#8 c f pm pl).toNat ≤ 0xFEFB := by omega
    exact ⟨hmin, hmax, hi_mem_of_range hmin hmax⟩
  case receiver => exact fun b _ hs => exec_rxChecksumMsb hs b

/-- Settles O3: equal sums have equal negations, and only the sum of six zeros is negated to 0. -/
theorem chkDependsOnTheSum : Obligations.ChkDependsOnTheSum := by
  refine ⟨?sumAlone, ?zero⟩
  case sumAlone =>
    intro v l c f pm pl v' l' c' f' pm' pl' hsum
    have hsum : contentSum v l c f pm pl = contentSum v' l' c' f' pm' pl' := hsum
    rw [chk_eq_ofNat, chk_eq_ofNat, hsum]
  case zero =>
    intro v l c f pm pl
    rw [chk_eq_zero_iff, contentSum_eq_zero_iff]

/-- Settles O4: the call's answer is `CHK`, as a function of the sum. -/
theorem chkAnswers : Obligations.ChkAnswers := by
  intro v l c f pm pl s
  rw [exec_chk, chk_eq_ofNat]
  rfl

end Sys2Proof.Proofs
end

section
/-! The encoder's parameters as numbers (spec 30_encoding.md R101 to R103). -/

namespace Sys2Proof.Machine

theorem trackParam_toNat (a : Half) : (trackParam a).toNat = min a.toNat 2999 := umin_toNat a _

theorem volumeParam_toNat (a : Half) : (volumeParam a).toNat = min a.toNat 30 := umin_toNat a _

/-- The sources are the numbers 1 to 4 (R105). -/
theorem sourceParam_toNat (a : Half) :
    (sourceParam a).toNat = if 1 ≤ a.toNat ∧ a.toNat ≤ 4 then a.toNat else 2 := by
  have hlisted : (a = 1#16 ∨ a = 2#16 ∨ a = 3#16 ∨ a = 4#16) ↔ 1 ≤ a.toNat ∧ a.toNat ≤ 4 := by
    simp only [← BitVec.toNat_inj, BitVec.toNat_ofNat]
    omega
  rw [sourceParam, if_congr hlisted rfl rfl, apply_ite BitVec.toNat]
  rfl

theorem folderNumber_toNat (a : Half) : (folderNumber a).toNat = min (max a.toNat 1) 99 := clamp_toNat a _ _

theorem folderTrack_toNat (b : Byte) : (folderTrack b).toNat = max b.toNat 1 := umax_toNat b _

/-- The clamped folder loses nothing in the one byte it is packed into (R103). -/
theorem folderParam_toNat (a : Half) (b : Byte) :
    (folderParam a b).toNat = min (max a.toNat 1) 99 * 256 + max b.toNat 1 := by
  rw [folderParam, half_toNat, lo_toNat, folderNumber_toNat, folderTrack_toNat]
  omega

/-- The split of a 16-bit value written in base 256 (R101). -/
theorem hi_lo_of_toNat {p : Half} {m l : Nat} (hp : p.toNat = m * 256 + l) (hl : l < 256) :
    hi p = BitVec.ofNat 8 m ∧ lo p = BitVec.ofNat 8 l := by
  have := p.isLt
  simp only [← BitVec.toNat_inj, hi_toNat, lo_toNat, BitVec.toNat_ofNat]
  omega

end Sys2Proof.Machine
end

section
/-! The encode operations (spec 41_encoder.md): each is the common encode step with its number and a parameter that its
operands alone determine. -/

namespace Sys2Proof.Machine

/-- An encode operation runs in every state, with a parameter that is no function of the state (R141, R142). -/
theorem exists_exec_eq_encodeEvent {i : Instr} {op : Byte} (h : encodeOp i = some op) :
    ∃ p, ∀ s, exec i s = encodeEvent op p s := by
  cases i <;> cases h
  all_goals exact ⟨_, fun _ => rfl⟩

/-- What the common encode step leaves is what R140 asks for, with the two bytes of the parameter. -/
theorem builds_of_encodeEvent {i : Instr} {op : Byte} {p : Half} {s : State} {m l : Nat}
    (hexec : exec i s = encodeEvent op p s) (hp : p.toNat = m * 256 + l) (hl : l < 256) :
    Builds i op (BitVec.ofNat 8 m) (BitVec.ofNat 8 l) s := by
  obtain ⟨hhi, hlo⟩ := hi_lo_of_toNat hp hl
  rw [← hhi, ← hlo]
  exact ⟨_, rfl, _, hexec, rfl, rfl⟩

/-- The number of a listed request is the number of the operation that it decodes to (R104). -/
theorem encodeOp_decodeRequest {op : Byte} (h : op ∈ listedOps) (a : Half) (b : Byte) :
    encodeOp (decodeRequest op a b) = some op := by
  simp only [listedOps, List.mem_cons, List.not_mem_nil, or_false] at h
  rcases h with rfl | rfl | rfl | rfl | rfl | rfl | rfl | rfl | rfl | rfl | rfl | rfl <;> rfl

theorem exec_encRefused (op : Byte) (a : Half) (b : Byte) (s : State) :
    exec (.encRefused op a b) s = .next (s.emit { encRefused := true }) := by rfl

end Sys2Proof.Machine

namespace Sys2Proof.Proofs

open Sys2Proof.Machine

/-- Settles O31: the markers of `OUT` are hard-wired and its checksum is that of its contents, so that its ten bytes are
a good frame. -/
theorem encodedFrameIsReceived : Obligations.EncodedFrameIsReceived := by
  intro i op s t hop hs ht
  obtain ⟨p, hexec⟩ := exists_exec_eq_encodeEvent hop
  cases (hexec s).symm.trans ht
  obtain ⟨hchecksum, -⟩ := outInv_encodeCommon op p s
  have hreceived := rxBytes_good ((encodeCommon op p s).emit {}).outBytes ((encodeCommon op p s).emit {}) hs
    rfl rfl rfl hchecksum rfl
  refine ⟨_, [{ arm := some s.timeoutMs }, {}, {}, {}, {}, {}, {}, {}, {}], _, hreceived, rfl, ?_, rfl, rfl, rfl, rfl,
    rfl⟩
  simp

/-- Settles O6: the two bytes of the clamped track number are its digits in base 256. -/
theorem playTrackBuildsClampedFrame : Obligations.PlayTrackBuildsClampedFrame := by
  intro a b s
  refine ⟨rfl, builds_of_encodeEvent (p := trackParam a) rfl ?_ (Nat.mod_lt _ (by decide))⟩
  rw [trackParam_toNat, Nat.div_add_mod']

/-- Settles O7: a volume of at most 30 leaves the MSB 0. -/
theorem setVolumeBuildsClampedFrame : Obligations.SetVolumeBuildsClampedFrame := by
  intro a b s
  refine ⟨rfl, builds_of_encodeEvent (m := 0) (p := volumeParam a) rfl ?_ (by omega)⟩
  rw [volumeParam_toNat, Nat.zero_mul, Nat.zero_add]

/-- Settles O8: a source of at most 4 leaves the MSB 0. -/
theorem setPlaybackSourceReplacesUnknown : Obligations.SetPlaybackSourceReplacesUnknown := by
  intro a b s
  refine ⟨rfl, builds_of_encodeEvent (m := 0) (p := sourceParam a) rfl ?_ (by split <;> omega)⟩
  rw [sourceParam_toNat, Nat.zero_mul, Nat.zero_add]

/-- Settles O9: the folder, clamped on all 16 bits, and the track are the two digits of the packed parameter. -/
theorem playFolderTrackClampsBoth : Obligations.PlayFolderTrackClampsBoth := by
  intro a b s
  have := b.isLt
  exact ⟨rfl, builds_of_encodeEvent rfl (folderParam_toNat a b) (by omega)⟩

/-- Settles O10: all three frames are the one of the operation's number, its parameter and `FEEDBACK`, which an encode
operation leaves alone. -/
theorem encodingIgnoresHistory : Obligations.EncodingIgnoresHistory := by
  intro i hi s s' hfeedback
  obtain ⟨op, hop⟩ := Option.isSome_iff_exists.1 hi
  obtain ⟨p, hexec⟩ := exists_exec_eq_encodeEvent hop
  refine ⟨_, _, _, hexec s, hexec s', ?_, hexec _, ?_⟩
  · simp only [State.emit_outBytes, outBytes_encodeCommon, hfeedback]
  · simp only [State.emit_outBytes, outBytes_encodeCommon, State.emit_feedback, encodeCommon_feedback]

/-- Settles O12: the decoder's default arm, and its twelve others. -/
theorem unlistedRequestIsRefused : Obligations.UnlistedRequestIsRefused := by
  refine ⟨?unlisted, ?listed⟩
  case unlisted => exact fun op a b s hop => ⟨decodeRequest_unlisted hop a b, exec_encRefused op a b s⟩
  case listed => exact fun op a b hop => encodeOp_decodeRequest hop a b

/-- Settles O5: each of the eight is the common encode step with parameter 0, whatever its operands. -/
theorem noOperandOperationsBuildTheirFrame : Obligations.NoOperandOperationsBuildTheirFrame := by
  intro p hp a b s
  have hrequest : decodeRequest p.2 a b = p.1 a b ∧ exec (p.1 a b) s = encodeEvent p.2 0#16 s := by
    simp only [List.mem_cons, List.not_mem_nil, or_false] at hp
    rcases hp with rfl | rfl | rfl | rfl | rfl | rfl | rfl | rfl <;> exact ⟨rfl, rfl⟩
  obtain ⟨hdecode, hexec⟩ := hrequest
  obtain ⟨k, hk, hbuilt⟩ := builds_of_encodeEvent (m := 0) (l := 0) hexec rfl (by decide)
  exact ⟨k, hk, hdecode, hbuilt⟩

end Sys2Proof.Proofs
end

section
/-! Which `FRAME` results there are (spec 42_receiver.md R183, 60_exceptions.md R236): only a byte event in awaiting-end
gives one, of the bytes that the fill invariant R27 speaks of, and every part of a step passes on the outputs of its
events. -/

namespace Sys2Proof.Machine

/-- The record of ten bytes is a good frame exactly when the bytes have the four fixed values and their own checksum. -/
theorem frameGood_recordOf (d : Slots Byte) :
    FrameGood (recordOf d) ↔ d.start = Config.startMarker ∧ d.ver = Config.version ∧ d.len = Config.length ∧
      d.fin = Config.endMarker ∧ half d.cm d.cl = expectedChecksum d := by
  simp only [FrameGood, recordOf, expectedChecksum, hi_half, lo_half]

theorem peerReport_eq (fr : Frame) :
    peerReport fr = { peerErr := decide (fr.command = 0x40#8), peerCode := fr.param } := by
  rw [peerReport, Config.peerErrorCmd, beq_eq_decide]

/-- If the output is a `FRAME`, then of a good frame and with its classification (R183, R236). -/
def FrameResultGood (o : EventOut) : Prop :=
  ∀ fr, o.result = .frame fr →
    FrameGood fr ∧ o.peer = some { peerErr := decide (fr.command = 0x40#8), peerCode := fr.param }

theorem frameResultGood_of_no_frame {o : EventOut} (h : ∀ fr, o.result ≠ .frame fr) : FrameResultGood o :=
  fun fr hfr => absurd hfr (h fr)

theorem frameResultGood_frame {fr : Frame} (h : FrameGood fr) :
    FrameResultGood { result := .frame fr, peer := some (peerReport fr) } := by
  rintro _ ⟨⟩
  exact ⟨h, congrArg some (peerReport_eq fr)⟩

theorem frameResultGood_outs_emit {o : EventOut} (s : State) (h : FrameResultGood o) :
    ∀ x ∈ (s.emit o).outs, FrameResultGood x :=
  List.forall_mem_singleton.2 h

/-! ### Events of the receiver -/

/-- What awaiting-end delivers is what the states before it have accepted (R27). -/
theorem rxByteEvent_frameResultGood {b : Byte} {s t : State} {o : EventOut} (h : rxByteEvent b s = .ok (t, o))
    (hs : AccInv s) : FrameResultGood o := by
  rcases rxByteEvent_cases h with ⟨-, -, -, rfl⟩ | ⟨-, -, hstart⟩ | ⟨-, rfl, -⟩ | ⟨-, k, hraise⟩ | ⟨hend, rfl, -⟩
  · exact frameResultGood_of_no_frame nofun
  · cases hstart; exact frameResultGood_of_no_frame nofun
  · exact frameResultGood_of_no_frame nofun
  · cases hraise; exact frameResultGood_of_no_frame nofun
  · obtain ⟨d, hacc, hstart, hver, hlen, hchecksum⟩ := hs.filled hend nofun
    rw [rxByteEvent_awaitingEnd _ hend, if_pos rfl, deliverFrame_filled hacc] at h
    cases h
    exact frameResultGood_frame ((frameGood_recordOf _).2
      ⟨hstart, hver (by decide), hlen (by decide), rfl, hchecksum rfl⟩)

theorem rxIdleEvent_frameResultGood (expired : Bool) (s : State) : FrameResultGood (rxIdleEvent expired s).2 := by
  unfold rxIdleEvent
  split
  · exact frameResultGood_of_no_frame nofun
  · exact frameResultGood_of_no_frame nofun

theorem rxBytes_frameResultGood {bs : List Byte} {s t : State} {os : List EventOut}
    (h : rxBytes bs s = .ok (t, os)) (hs : AccInv s) : ∀ o ∈ os, FrameResultGood o := by
  fun_induction rxBytes bs s generalizing os with
  | case1 => cases h; exact List.forall_mem_nil _
  | case2 => cases h
  | case3 => cases h
  | case4 s b rest s1 o hb s2 os2 hrest ih =>
    cases h
    exact List.forall_mem_cons.2 ⟨rxByteEvent_frameResultGood hb hs, ih hrest (rxByteEvent_accInv hb hs)⟩

theorem receiveLoop_frameResultGood {ins : List Input} {s t : State} {os : List EventOut}
    (h : receiveLoop ins s = .ok (t, os)) (hs : AccInv s) : ∀ o ∈ os, FrameResultGood o := by
  fun_induction receiveLoop ins s generalizing t os with
  | case1 => cases h
  | case2 => cases h
  | case3 s b rest s1 o hb hnone s2 os2 hrest ih =>
    cases h
    exact List.forall_mem_cons.2 ⟨rxByteEvent_frameResultGood hb hs, ih hrest (rxByteEvent_accInv hb hs)⟩
  | case4 s b rest s1 o hb hresult =>
    cases h
    exact List.forall_mem_singleton.2 (rxByteEvent_frameResultGood hb hs)
  | case5 => cases h
  | case6 s expired rest s1 o hidle hnone s2 os2 hrest ih =>
    cases h
    have hgood := rxIdleEvent_frameResultGood expired s
    have hacc := rxIdleEvent_accInv expired hs
    rw [hidle] at hgood hacc
    exact List.forall_mem_cons.2 ⟨hgood, ih hrest hacc⟩
  | case7 s expired rest s1 o hidle hresult =>
    cases h
    have hgood := rxIdleEvent_frameResultGood expired s
    rw [hidle] at hgood
    exact List.forall_mem_singleton.2 hgood
  | case8 => cases h; exact List.forall_mem_nil _

/-! ### Events, lines, cycles and steps -/

/-- A step of several receiver events passes on their outputs. -/
theorem frameResultGood_outs_finish {ran : Ran} {t : State} (h : finish ran = .next t)
    (hran : ∀ u os, ran = .ok (u, os) → ∀ o ∈ os, FrameResultGood o) : ∀ o ∈ t.outs, FrameResultGood o := by
  cases ran with
  | error f => cases h
  | ok q =>
    obtain ⟨u, os⟩ := q
    cases h
    exact hran u os rfl

theorem decodeRequest_frameResultGood {op : Byte} {a : Half} {b : Byte} {s t : State}
    (h : exec (decodeRequest op a b) s = .next t) : ∀ o ∈ t.outs, FrameResultGood o := by
  by_cases hop : op ∈ listedOps
  · obtain ⟨p, hp⟩ := exec_decodeRequest_listed hop a b s
    cases hp.symm.trans h
    exact frameResultGood_outs_emit _ (frameResultGood_of_no_frame nofun)
  · cases (exec_decodeRequest_unlisted hop a b s).symm.trans h
    exact frameResultGood_outs_emit _ (frameResultGood_of_no_frame nofun)

theorem event_frameResultGood {e : Event} {s t : State} (h : exec (decodeEvent s.rxs e) s = .next t)
    (hs : AccInv s) : ∀ o ∈ t.outs, FrameResultGood o := by
  cases e with
  | enc op a b => exact decodeRequest_frameResultGood h
  | rxByte b =>
    obtain ⟨u, o, hb, -⟩ := rxByteEvent_total b hs
    rw [decodeEvent, exec_decodeRxByte, hb, finishOne_ok] at h
    cases h
    exact frameResultGood_outs_emit u (rxByteEvent_frameResultGood hb hs)
  | rxIdle expired =>
    cases (exec_rxIdle expired s).symm.trans h
    exact frameResultGood_outs_emit _ (rxIdleEvent_frameResultGood expired s)
  | receiveFrame =>
    exact frameResultGood_outs_finish ((exec_receiveFrame s).symm.trans h)
      fun _ _ hloop => receiveLoop_frameResultGood hloop hs
  | send | getFrameBytes | getFrameRecord | rxLoad | rxAbort | reset | chk =>
    cases h
    exact frameResultGood_outs_emit _ (frameResultGood_of_no_frame nofun)

theorem runLine_frameResultGood {F : FrameWord} {s t : State} (h : runLine F s = .next t) (hs : AccInv s) :
    ∀ o ∈ t.outs, FrameResultGood o := by
  cases hF : decodeInbound F with
  | ok i =>
    obtain ⟨bs, hi⟩ := exec_of_decodeInbound hF s
    rw [runLine_of_decodeInbound hF, hi] at h
    exact frameResultGood_outs_finish h fun _ _ hbytes => rxBytes_frameResultGood hbytes hs
  | error r =>
    simp only [runLine, hF] at h
    cases h
    exact List.forall_mem_nil _

/-- The encoder's part of a cycle has no result. -/
theorem encoderCycle_frameResultGood {p : InPorts} {s t : State} (h : encoderCycle p s = .next t) :
    ∀ o ∈ t.outs, FrameResultGood o := by
  intro o ho
  obtain ⟨-, houts, -⟩ := encoderCycle_outs h
  obtain rfl | rfl := houts o ho
  · exact frameResultGood_of_no_frame nofun
  · exact frameResultGood_of_no_frame nofun

theorem cycle_frameResultGood {p : InPorts} {s t : State} (h : cycle p s = .next t) (hs : AccInv s) :
    ∀ o ∈ t.outs, FrameResultGood o := by
  cases hrst : p.rst with
  | true =>
    rw [cycle_of_rst hrst] at h
    exact event_frameResultGood (e := .reset) h hs
  | false =>
    rw [cycle_of_not_rst hrst] at h
    obtain ⟨u, v, hu, hv, rfl⟩ := chainOuts_eq_next.1 h
    exact List.forall_mem_append.2 ⟨event_frameResultGood hu hs, encoderCycle_frameResultGood hv⟩

theorem runInput_frameResultGood {x : Input} {s t : State} (h : runInput x s = .next t) (hs : AccInv s) :
    ∀ o ∈ t.outs, FrameResultGood o := by
  cases x with
  | event e => exact event_frameResultGood h hs
  | line F => exact runLine_frameResultGood h hs
  | cycle p => exact cycle_frameResultGood h hs

end Sys2Proof.Machine

namespace Sys2Proof.Proofs

open Sys2Proof.Machine

/-- Settles O29, by the shape of the script: of the invariant it needs the receiver's half, which taking an input
leaves as it is. -/
theorem everyFrameResultIsGood : Obligations.EveryFrameResultIsGood := by
  intro s t hs h
  obtain ⟨-, hacc⟩ := hs
  cases hx : s.inputs with
  | nil =>
    cases (step_of_no_input hx).symm.trans h
    exact List.forall_mem_nil _
  | cons x rest =>
    exact runInput_frameResultGood ((step_of_input hx).symm.trans h) ((accInv_congr (s := s) rfl rfl).2 hacc)

end Sys2Proof.Proofs
end

section
/-! One byte at a time (spec 42_receiver.md R172 to R182): the instruction that a byte decodes to runs the byte event of
the current state. -/

namespace Sys2Proof.Machine

/-- A byte that the receiver takes: which instruction it is, and what that instruction leaves (R113). -/
theorem decodes_and_runs {i : Instr} {b : Byte} {s t : State} {o : EventOut} (hi : decodeRxByte s.rxs b = i)
    (h : rxByteEvent b s = .ok (t, o)) : decodeRxByte s.rxs b = i ∧ exec i s = .next (t.emit o) := by
  refine ⟨hi, ?_⟩
  rw [← hi, exec_decodeRxByte, h, finishOne_ok]

/-- In a state with one good byte the table and the byte event branch alike: on that byte, and on all others. -/
theorem decodes_and_runs_branches {s : State} {good : Byte} {accept : Instr} {reject : Byte → Instr}
    {accepted rejected : State × EventOut}
    (hdecode : ∀ b, decodeRxByte s.rxs b = if b = good then accept else reject b)
    (hrun : ∀ b, rxByteEvent b s = .ok (if b = good then accepted else rejected)) :
    (decodeRxByte s.rxs good = accept ∧ exec accept s = .next (accepted.1.emit accepted.2)) ∧
    (∀ b, b ≠ good →
      decodeRxByte s.rxs b = reject b ∧ exec (reject b) s = .next (rejected.1.emit rejected.2)) := by
  refine ⟨?good, fun b hb => ?other⟩
  case good => exact decodes_and_runs ((hdecode good).trans (if_pos rfl)) ((hrun good).trans (by rw [if_pos rfl]))
  case other => exact decodes_and_runs ((hdecode b).trans (if_neg hb)) ((hrun b).trans (by rw [if_neg hb]))

/-- The byte event of state 9 behind nine filled slots (R181, R236). -/
theorem rxByteEvent_awaitingEnd_filled {s : State} {d : Slots Byte} (hs : s.rxs = .awaitingEnd)
    (hacc : s.acc = firstSlots 9 d) (b : Byte) :
    rxByteEvent b s = .ok (if b = Config.endMarker then
      (s.restart, { result := .frame (recordOf { d with fin := Config.endMarker })
                    peer := some (peerReport (recordOf { d with fin := Config.endMarker })) })
      else raise .endMarker s) := by
  rw [rxByteEvent_awaitingEnd b hs, deliverFrame_filled hacc, apply_ite Except.ok]

end Sys2Proof.Machine

namespace Sys2Proof.Proofs

open Sys2Proof.Machine

/-- Settles O13: the good byte is the start marker. -/
theorem startByte : Obligations.StartByte := by
  intro s hs
  exact decodes_and_runs_branches (fun b => by rw [hs, decodeRxByte]) (rxByteEvent_awaitingStart · hs)

/-- Settles O14: the good byte is the version. -/
theorem versionByte : Obligations.VersionByte := by
  intro s hs
  exact decodes_and_runs_branches (fun b => by rw [hs, decodeRxByte]) (rxByteEvent_awaitingVersion · hs)

/-- Settles O15: the good byte is the length. -/
theorem lengthByte : Obligations.LengthByte := by
  intro s hs
  exact decodes_and_runs_branches (fun b => by rw [hs, decodeRxByte]) (rxByteEvent_awaitingLength · hs)

/-- Settles O16: each of the five states has one branch, which stores the byte in that state's slot. -/
theorem dataBytesAreStored : Obligations.DataBytesAreStored := by
  intro b s
  refine ⟨fun hs => ?command, fun hs => ?feedback, fun hs => ?paramMsb, fun hs => ?paramLsb, fun hs => ?checksumMsb⟩
  case command | feedback | paramMsb | paramLsb | checksumMsb =>
    exact decodes_and_runs (b := b) (by rw [hs, decodeRxByte]) (by rw [rxByteEvent, hs])

/-- Settles O17: the judgement behind the seven filled slots; equal 16-bit values are equal numbers. -/
theorem checksumIsJudgedAtItsLastByte : Obligations.ChecksumIsJudgedAtItsLastByte := by
  intro b v l c f pm pl m s hs hver hlen hcmd hfb hpm hpl hcm
  have hjudged := (rxByteEvent_awaitingChecksumLsb b hs).trans (judgeChecksum_filled b hver hlen hcmd hfb hpm hpl hcm)
  have hdecode : decodeRxByte s.rxs b = .rxChecksumLsb b := by rw [hs, decodeRxByte]
  simp only [← half_toNat, BitVec.toNat_inj]
  by_cases hk : half m b = chk v l c f pm pl
  · rw [if_pos hk] at hjudged ⊢
    exact decodes_and_runs hdecode hjudged
  · rw [if_neg hk] at hjudged ⊢
    exact decodes_and_runs hdecode hjudged

/-- Settles O18: the good byte is the end marker, which delivers the nine filled slots and itself. -/
theorem endByteDeliversTheFrame : Obligations.EndByteDeliversTheFrame := by
  intro d s hs hacc
  have hrun := rxByteEvent_awaitingEnd_filled hs hacc
  rw [peerReport_eq] at hrun
  exact decodes_and_runs_branches (fun b => by rw [hs, decodeRxByte]) hrun

/-- Settles O19: the two branches of the poll. -/
theorem idlePoll : Obligations.IdlePoll := by
  intro expired s
  rw [exec_rxIdle, rxIdleEvent]
  split
  · rfl
  · rfl

end Sys2Proof.Proofs
end

section
/-! Whole frames (spec 42_receiver.md R180, R183, R184): a frame around given contents, and which ten bytes the receiver
delivers. A byte moves the receiver at most one state further, so that ten bytes deliver a frame only where each of them
is accepted. -/

namespace Sys2Proof.Machine

@[simp] theorem recordOf_frameAround (cmd fb : Byte) (param ck : Half) : recordOf (frameAround cmd fb param ck) =
    { start := Config.startMarker, version := Config.version, length := Config.length, command := cmd, feedback := fb,
      param := param, checksum := ck, endMarker := Config.endMarker } := by
  simp only [recordOf, frameAround, half_hi_lo]

/-- The receiver's comparison, for a frame given by its contents and its checksum (R97, R180). -/
theorem frameAround_checksum_iff (cmd fb : Byte) (param ck : Half) :
    half (frameAround cmd fb param ck).cm (frameAround cmd fb param ck).cl =
        expectedChecksum (frameAround cmd fb param ck) ↔
      ck = chk 0xFF#8 0x06#8 cmd fb (hi param) (lo param) := by
  simp only [frameAround, half_hi_lo, expectedChecksum, Config.version, Config.length]

theorem exists_eq_frameFor_iff (d : Slots Byte) :
    (∃ cmd fb param, d = frameFor cmd fb param) ↔ FrameGood (recordOf d) := by
  rw [frameGood_recordOf]
  constructor
  · rintro ⟨cmd, fb, param, rfl⟩
    exact ⟨rfl, rfl, rfl, rfl, (frameAround_checksum_iff cmd fb param _).2 rfl⟩
  · rintro ⟨hstart, hver, hlen, hfin, hchecksum⟩
    refine ⟨d.cmd, d.fb, half d.pm d.pl, ?_⟩
    rw [expectedChecksum, hver, hlen] at hchecksum
    rw [frameFor, frameAround, hi_half, lo_half, ← hchecksum, hi_half, lo_half, ← hstart, ← hver, ← hlen, ← hfin]

theorem frameFor_inj {cmd fb cmd' fb' : Byte} {param param' : Half}
    (h : frameFor cmd fb param = frameFor cmd' fb' param') : cmd = cmd' ∧ fb = fb' ∧ param = param' := by
  refine ⟨congrArg Slots.cmd h, congrArg Slots.fb h, ?_⟩
  have hhi : hi param = hi param' := congrArg Slots.pm h
  have hlo : lo param = lo param' := congrArg Slots.pl h
  rw [← half_hi_lo param, hhi, hlo, half_hi_lo]

/-! ### Which ten bytes are delivered -/

/-- A run of byte events that answers, taken apart at its first byte. -/
theorem rxBytes_cons_ok {b : Byte} {rest : List Byte} {s t : State} {os : List EventOut}
    (h : rxBytes (b :: rest) s = .ok (t, os)) :
    ∃ s1 o os', rxByteEvent b s = .ok (s1, o) ∧ rxBytes rest s1 = .ok (t, os') ∧ os = o :: os' := by
  rw [rxBytes] at h
  split at h
  · cases h
  · next hb =>
    split at h
    · cases h
    · next hrest =>
      cases h
      exact ⟨_, _, _, hb, hrest, rfl⟩

/-- The bytes are taken, and one of them gives a `FRAME`. -/
def Delivers (bs : List Byte) (s : State) : Prop :=
  ∃ t os, rxBytes bs s = .ok (t, os) ∧ ∃ o ∈ os, ∃ fr, o.result = .frame fr

/-- The first byte of a run that answers answers, and what the run gives is given at that byte or behind it. -/
theorem delivers_cons {b : Byte} {rest : List Byte} {s : State} (h : Delivers (b :: rest) s) :
    ∃ s1 o, rxByteEvent b s = .ok (s1, o) ∧ ((∃ fr, o.result = .frame fr) ∨ Delivers rest s1) := by
  obtain ⟨t, os, hrun, x, hx, hframe⟩ := h
  obtain ⟨s1, o, os', hb, hrest, rfl⟩ := rxBytes_cons_ok hrun
  refine ⟨s1, o, hb, (List.mem_cons.1 hx).imp ?_ fun hx => ⟨t, os', hrest, x, hx, hframe⟩⟩
  rintro rfl
  exact hframe

/-- A byte event moves the receiver at most one state further, and gives a `FRAME` in awaiting-end only (R31). -/
theorem rxByteEvent_code_le {b : Byte} {s t : State} {o : EventOut} (h : rxByteEvent b s = .ok (t, o)) :
    t.rxs.code.toNat ≤ s.rxs.code.toNat + 1 ∧ (∀ fr, o.result = .frame fr → s.rxs = .awaitingEnd) := by
  rcases rxByteEvent_cases h with ⟨-, -, rfl, rfl⟩ | ⟨hs, -, hstart⟩ | ⟨-, rfl, r, a, rfl, hcode⟩ |
    ⟨-, k, hraise⟩ | ⟨hend, -, rfl, -⟩
  · exact ⟨Nat.le_succ _, nofun⟩
  · cases hstart
    rw [hs]
    exact ⟨Nat.le_refl 1, nofun⟩
  · refine ⟨?_, nofun⟩
    rw [State.setRx_rxs, hcode, BitVec.toNat_add]
    exact Nat.mod_le _ _
  · cases hraise
    exact ⟨Nat.zero_le _, nofun⟩
  · exact ⟨Nat.zero_le _, fun _ _ => hend⟩

/-- The receiver's number and the bytes still to come do not reach ten: no `FRAME`. -/
theorem not_delivers_of_few {bs : List Byte} {s : State} (h : s.rxs.code.toNat + bs.length < 10) :
    ¬ Delivers bs s := by
  induction bs generalizing s with
  | nil =>
    rintro ⟨t, os, hrun, o, ho, -⟩
    cases hrun
    cases ho
  | cons b rest ih =>
    intro hdelivers
    rw [List.length_cons] at h
    obtain ⟨s1, o, hb, hnow | hlater⟩ := delivers_cons hdelivers
    all_goals obtain ⟨hcode, hend⟩ := rxByteEvent_code_le hb
    · obtain ⟨fr, hfr⟩ := hnow
      rw [hend fr hfr, show RxState.awaitingEnd.code.toNat = 9 from rfl] at h
      omega
    · exact ih (by omega) hlater

/-- A byte that gives nothing leaves the `FRAME` to those behind it. -/
theorem Delivers.behind {b : Byte} {rest : List Byte} {s s1 : State} {o : EventOut} (h : Delivers (b :: rest) s)
    (hb : rxByteEvent b s = .ok (s1, o)) (ho : ∀ fr, o.result ≠ .frame fr) : Delivers rest s1 := by
  obtain ⟨s1', o', hb', hnow | hlater⟩ := delivers_cons h
  all_goals cases hb'.symm.trans hb
  · obtain ⟨fr, hfr⟩ := hnow
    exact absurd hfr (ho fr)
  · exact hlater

/-- A rejected byte puts the receiver back to awaiting-start, with too few bytes left for a frame. -/
theorem Delivers.accepted {b : Byte} {rest : List Byte} {s : State} {c : Prop} [Decidable c]
    {accept reject : State × EventOut} (h : Delivers (b :: rest) s)
    (hb : rxByteEvent b s = .ok (if c then accept else reject)) (hrest : rest.length < 10)
    (hrxs : reject.1.rxs = .awaitingStart) (hreject : ∀ fr, reject.2.result ≠ .frame fr) :
    c ∧ ((∀ fr, accept.2.result ≠ .frame fr) → Delivers rest accept.1) := by
  by_cases hc : c
  · rw [if_pos hc] at hb
    exact ⟨hc, h.behind hb⟩
  · rw [if_neg hc] at hb
    refine absurd (h.behind hb hreject) (not_delivers_of_few ?_)
    rw [hrxs]
    exact (Nat.zero_add _).trans_lt hrest

/-- Bytes that deliver a frame from awaiting-start begin with the three fixed bytes, and the five behind them are taken
as they are. -/
theorem Delivers.header {d : Slots Byte} {s : State} (hs : s.rxs = .awaitingStart) (h : Delivers (wireOrder d) s) :
    d.start = Config.startMarker ∧ d.ver = Config.version ∧ d.len = Config.length ∧
      Delivers [d.cl, d.fin] (s.setRx .awaitingChecksumLsb (firstSlots 8 d)) := by
  obtain ⟨start, ver, len, cmd, fb, pm, pl, cm, cl, fin⟩ := d
  obtain ⟨rfl, h⟩ := h.accepted (rxByteEvent_awaitingStart start hs) (by simp) hs nofun
  obtain ⟨rfl, h⟩ := (h nofun).accepted (rxByteEvent_awaitingVersion ver rfl) (by simp) rfl nofun
  obtain ⟨rfl, h⟩ := (h nofun).accepted (rxByteEvent_awaitingLength len rfl) (by simp) rfl nofun
  exact ⟨rfl, rfl, rfl,
    (((((h nofun).behind rfl nofun).behind rfl nofun).behind rfl nofun).behind rfl nofun).behind rfl nofun⟩

/-- Ten bytes that deliver a frame from awaiting-start are a good frame (R183, R184). -/
theorem Delivers.frameGood {d : Slots Byte} {s : State} (hs : s.rxs = .awaitingStart) (h : Delivers (wireOrder d) s) :
    FrameGood (recordOf d) := by
  obtain ⟨hstart, hver, hlen, h⟩ := h.header hs
  obtain ⟨hchecksum, h⟩ := h.accepted (rxByteEvent_checksumLsb d s) (by simp) rfl nofun
  obtain ⟨hfin, -⟩ := (h nofun).accepted (rxByteEvent_awaitingEnd_filled rfl rfl d.fin) (by simp) rfl nofun
  exact (frameGood_recordOf d).2 ⟨hstart, hver, hlen, hfin, hchecksum⟩

end Sys2Proof.Machine

namespace Sys2Proof.Proofs

open Sys2Proof.Machine

/-- Settles O24: the row's ten bytes are a good frame. -/
theorem goodFrameIsAccepted : Obligations.GoodFrameIsAccepted := by
  intro cmd fb param ck s hs hck
  have hreceived := rxBytes_good (frameAround cmd fb param ck) s hs rfl rfl rfl
    ((frameAround_checksum_iff cmd fb param ck).2 hck) rfl
  rw [recordOf_frameAround, peerReport_eq] at hreceived
  exact congrArg finish hreceived

/-- Settles O26: both inbound rows are ten byte events of a frame around the given contents. -/
theorem badChecksumFrameIsReported : Obligations.BadChecksumFrameIsReported := by
  intro i cmd fb param ck s hs hi hck
  have hexec : exec i s = finish (rxBytes (wireOrder (frameAround cmd fb param ck)) s) := by
    obtain rfl | ⟨rfl, rfl⟩ := hi
    · rfl
    · rfl
  rw [hexec, rxBytes_badChecksum _ s hs rfl rfl rfl (mt (frameAround_checksum_iff cmd fb param ck).1 hck)
    (show Config.endMarker ≠ Config.startMarker by decide)]
  rfl

/-- Settles O30: good frames are delivered, and nothing else is. -/
theorem acceptedFramesAreTheChoices : Obligations.AcceptedFramesAreTheChoices := by
  refine ⟨fun d s hs => ?_, fun _ _ _ _ _ _ => frameFor_inj⟩
  rw [exists_eq_frameFor_iff]
  constructor
  · rintro ⟨t, os, o, fr, hrun, hfr⟩
    exact Delivers.frameGood hs ⟨t, os ++ [o], hrun, o, List.mem_append_right os List.mem_cons_self, fr, hfr⟩
  · intro hgood
    obtain ⟨hstart, hver, hlen, hfin, hchecksum⟩ := (frameGood_recordOf d).1 hgood
    exact ⟨_, [{ arm := some s.timeoutMs }, {}, {}, {}, {}, {}, {}, {}, {}], _, _,
      rxBytes_good d s hs hstart hver hlen hchecksum hfin, rfl⟩

end Sys2Proof.Proofs
end

section
/-! Bytes with idle polls between them (spec 42_receiver.md R182, R183): a poll with the timer not expired leaves what a
byte event reads as it is, so that the bytes are taken as if they came one after the other. -/

namespace Sys2Proof.Machine

/-- A poll with the timer not expired, taken from the script: the receiver stays as it is (R182). -/
theorem step_of_idle_poll {s : State} {rest : List Input} (h : s.inputs = .event (.rxIdle false) :: rest) :
    step s = .next ((s.taking rest).emit {}) := by
  rw [step_of_event h, decodeEvent, exec_rxIdle, rxIdleEvent, if_neg (fun hexpired => Bool.noConfusion hexpired.2)]

theorem runSteps_of_idle_polls (n : Nat) {s : State} {rest : List Input}
    (h : s.inputs = List.replicate n (.event (.rxIdle false)) ++ rest) :
    ∃ v, SameReceiver s v ∧ v.inputs = rest ∧ ∀ m, runSteps (n + m) s = runSteps m v := by
  induction n generalizing s with
  | zero => exact ⟨s, ⟨rfl, rfl, rfl⟩, h, fun m => by rw [Nat.zero_add]⟩
  | succ k ih =>
    rw [List.replicate_succ, List.cons_append] at h
    obtain ⟨v, hsame, hinputs, hrun⟩ :=
      ih (s := (s.taking (List.replicate k (.event (.rxIdle false)) ++ rest)).emit {}) rfl
    refine ⟨v, ⟨hsame.rxs, hsame.acc, hsame.timeoutMs⟩, hinputs, fun m => ?_⟩
    rw [Nat.add_right_comm, runSteps_succ (step_of_idle_poll h), hrun]

/-- A byte taken from the script does what the byte event does in any state with the same receiver. -/
theorem step_of_rxByte {b : Byte} {s v s1 : State} {o : EventOut} {rest : List Input} (hsame : SameReceiver s v)
    (hb : rxByteEvent b s = .ok (s1, o)) (h : v.inputs = .event (.rxByte b) :: rest) :
    ∃ w, step v = .next w ∧ SameReceiver s1 w ∧ w.inputs = rest ∧ w.outs = [o] := by
  have htaken : SameReceiver s (v.taking rest) := ⟨hsame.rxs, hsame.acc, hsame.timeoutMs⟩
  have hbyte : rxByteEvent b (v.taking rest) = .ok ((v.taking rest).setRx s1.rxs s1.acc, o) := by
    rw [rxByteEvent_onto htaken, hb]
    rfl
  refine ⟨((v.taking rest).setRx s1.rxs s1.acc).emit o, ?_, ⟨rfl, rfl, ?_⟩, rfl, rfl⟩
  · rw [step_of_event h, ← State.taking_rxs v rest, decodeEvent, exec_decodeRxByte, hbyte, finishOne_ok]
  · rw [rxByteEvent_frame hb]
    exact hsame.timeoutMs

/-- The script of a byte with a number of idle polls before it. -/
def polledByte (p : Nat × Byte) : List Input :=
  List.replicate p.1 (.event (.rxIdle false)) ++ [.event (.rxByte p.2)]

/-- The idle polls and their byte, step by step. -/
theorem runSteps_of_polledByte {p : Nat × Byte} {s v s1 : State} {o : EventOut} {rest : List Input}
    (hsame : SameReceiver s v) (hb : rxByteEvent p.2 s = .ok (s1, o)) (h : v.inputs = polledByte p ++ rest) :
    ∃ w, SameReceiver s1 w ∧ w.inputs = rest ∧ w.outs = [o] ∧ ∀ m, runSteps (p.1 + (m + 1)) v = runSteps m w := by
  rw [polledByte, List.append_assoc] at h
  obtain ⟨v', hpolled, hinputs, hpolls⟩ := runSteps_of_idle_polls p.1 h
  have hsame' : SameReceiver s v' :=
    ⟨hpolled.rxs.trans hsame.rxs, hpolled.acc.trans hsame.acc, hpolled.timeoutMs.trans hsame.timeoutMs⟩
  obtain ⟨w, hstep, hw, hrest, houts⟩ := step_of_rxByte hsame' hb hinputs
  exact ⟨w, hw, hrest, houts, fun m => by rw [hpolls, runSteps_succ hstep]⟩

/-- Step by step the polled bytes leave the receiver that the bytes alone leave, and the outputs of the last byte. -/
theorem runSteps_of_polledBytes (ps : List (Nat × Byte)) {s v u : State} {os : List EventOut} {rest : List Input}
    (hsame : SameReceiver s v) (hrun : rxBytes (ps.map Prod.snd) s = .ok (u, os))
    (h : v.inputs = ps.flatMap polledByte ++ rest) :
    ∃ t, runSteps (ps.length + (ps.map Prod.fst).sum) v = .next t ∧ t.inputs = rest ∧ SameReceiver u t ∧
      t.outs = (os.map fun o => [o]).getLastD v.outs := by
  induction ps generalizing s v os with
  | nil =>
    cases hrun
    exact ⟨v, rfl, h, hsame, rfl⟩
  | cons p ps ih =>
    rw [List.map_cons] at hrun
    obtain ⟨s1, o, os', hb, hrest, rfl⟩ := rxBytes_cons_ok hrun
    rw [List.flatMap_cons, List.append_assoc] at h
    obtain ⟨w, hw, hinputs, houts, hstep⟩ := runSteps_of_polledByte hsame hb h
    obtain ⟨t, ht, hleft, hu, hlast⟩ := ih hw hrest hinputs
    refine ⟨t, ?_, hleft, hu, ?_⟩
    · rw [← ht, ← hstep, List.length_cons, List.map_cons, List.sum_cons]
      congr 1
      omega
    · rw [hlast, houts, List.map_cons, List.getLastD_cons]

end Sys2Proof.Machine

namespace Sys2Proof.Proofs

open Sys2Proof.Machine

/-- Settles O28: the ten bytes, each with its polls, leave what the ten bytes of a good frame leave. -/
theorem goodFrameSurvivesIdlePolls : Obligations.GoodFrameSurvivesIdlePolls := by
  intro d gaps rest s hs hstart hver hlen hchecksum hfin hinputs
  have hreceived := rxBytes_good d s hs hstart hver hlen hchecksum hfin
  obtain ⟨t, ht, hrest, hsame, houts⟩ :=
    runSteps_of_polledBytes ((wireOrder gaps).zip (wireOrder d)) ⟨rfl, rfl, rfl⟩ hreceived hinputs
  exact ⟨_, t, ht, hrest, hsame.rxs, hsame.acc, houts, rfl⟩

end Sys2Proof.Proofs
end

section
/-! The surface operations (spec 43_surface_ops.md R210 to R213, R215): the accessors, load, abort and `Send`. -/

namespace Sys2Proof.Machine

/-- The other direction of R40's bijection. -/
theorem bytesOf_recordOf (d : Slots Byte) : bytesOf (recordOf d) = d := by
  simp only [bytesOf, recordOf, hi_half, lo_half]

theorem exec_rxLoad (d : Slots Byte) (s : State) : exec (.rxLoad d) s = .next ((s.load d).emit {}) := by rfl

theorem exec_rxAbort (s : State) : exec .rxAbort s = .next (s.restart.emit {}) := by rfl

/-- Ten slots from the first on are all of them (R212). -/
theorem firstSlots_ten (d : Slots Byte) : firstSlots 10 d =
    { start := some d.start, ver := some d.ver, len := some d.len, cmd := some d.cmd, fb := some d.fb,
      pm := some d.pm, pl := some d.pl, cm := some d.cm, cl := some d.cl, fin := some d.fin } := by rfl

end Sys2Proof.Machine

namespace Sys2Proof.Proofs

open Sys2Proof.Machine

/-- Settles O34: the accessors answer `OUT` with its hard-wired bytes; a 16-bit field is its two bytes, both ways. -/
theorem accessorsReadOut : Obligations.AccessorsReadOut := by
  refine ⟨fun s => ⟨?bytes, ?record⟩, bytesOf_recordOf, recordOf_bytesOf⟩
  case bytes => exact exec_getFrameBytes s
  case record => exact exec_getFrameRecord s

/-- Settles O35: a load fills every slot, an abort is a restart without a report. -/
theorem loadAndAbort : Obligations.LoadAndAbort := by
  intro d s
  refine ⟨?load, ?abort⟩
  case load => rw [exec_rxLoad, State.load, firstSlots_ten]; rfl
  case abort => exact exec_rxAbort s

/-- Settles O36: what is appended is `OUT` in wire order, its hard-wired bytes included. -/
theorem sendAppendsTheFrame : Obligations.SendAppendsTheFrame :=
  exec_txSend

end Sys2Proof.Proofs
end

section
/-! The receive call (spec 43_surface_ops.md R214). What a call leaves is said once, by the relation `ReceiveCall`; what
it took, where it ended, and that stepping through its polls does the same are inductions on it. -/

namespace Sys2Proof.Machine

/-- The input is a poll, and in state `s` it leaves `s1` with the outputs `o`. -/
inductive PollGives : Input → State → State → EventOut → Prop where
  | byte {b : Byte} {s s1 : State} {o : EventOut} (h : rxByteEvent b s = .ok (s1, o)) :
      PollGives (.event (.rxByte b)) s s1 o
  | idle {expired : Bool} {s s1 : State} {o : EventOut} (h : rxIdleEvent expired s = (s1, o)) :
      PollGives (.event (.rxIdle expired)) s s1 o

/-- A receive call over the presented inputs: it returns at a poll with a result, goes on behind one without, and waits
where no poll is next. -/
inductive ReceiveCall : List Input → State → State → List EventOut → Prop where
  | returns {x : Input} {rest : List Input} {s s1 : State} {o : EventOut} (hpoll : PollGives x s s1 o)
      (hresult : o.result ≠ .none) : ReceiveCall (x :: rest) s { s1 with inputs := rest } [o]
  | goesOn {x : Input} {rest : List Input} {s s1 t : State} {o : EventOut} {os : List EventOut}
      (hpoll : PollGives x s s1 o) (hnone : o.result = .none) (hrest : ReceiveCall rest s1 t os) :
      ReceiveCall (x :: rest) s t (o :: os)
  | waits {ins : List Input} {s : State} (hnext : ∀ x xs, ins = x :: xs → isPoll x = false) :
      ReceiveCall ins s { s with inputs := stillWaiting ins } []

theorem Result.isNone_iff (r : Result) : r.isNone = true ↔ r = .none := by
  cases r <;> simp [Result.isNone]

/-- The loop is the relation: its two kinds of poll, each with and without a result, and its last case. -/
theorem receiveCall_of_receiveLoop {ins : List Input} {s t : State} {os : List EventOut}
    (h : receiveLoop ins s = .ok (t, os)) : ReceiveCall ins s t os := by
  fun_induction receiveLoop ins s generalizing t os with
  | case1 | case2 | case5 => cases h
  | case3 s b rest s1 o hb hnone s2 os2 hrest ih =>
    cases h
    exact .goesOn (.byte hb) ((Result.isNone_iff _).1 hnone) (ih hrest)
  | case4 s b rest s1 o hb hresult =>
    cases h
    exact .returns (.byte hb) (mt (Result.isNone_iff _).2 hresult)
  | case6 s expired rest s1 o hidle hnone s2 os2 hrest ih =>
    cases h
    exact .goesOn (.idle hidle) ((Result.isNone_iff _).1 hnone) (ih hrest)
  | case7 s expired rest s1 o hidle hresult =>
    cases h
    exact .returns (.idle hidle) (mt (Result.isNone_iff _).2 hresult)
  | case8 s ins hbyte hidle =>
    cases h
    refine .waits ?_
    rintro x xs rfl
    cases x with
    | event e =>
      cases e with
      | rxByte b => exact absurd rfl (hbyte b xs)
      | rxIdle expired => exact absurd rfl (hidle expired xs)
      | _ => rfl
    | line F => rfl
    | cycle p => rfl

/-- What a receive call that completes leaves. -/
theorem receiveCall_of_exec {s t : State} (h : exec .receiveFrame s = .next t) :
    ∃ u, ReceiveCall (asPolls s.inputs) s u t.outs ∧ t = { u with outs := t.outs } := by
  rw [exec_receiveFrame] at h
  cases hloop : receiveLoop (asPolls s.inputs) s with
  | error f => rw [hloop] at h; cases h
  | ok q =>
    obtain ⟨u, os⟩ := q
    rw [hloop] at h
    cases h
    exact ⟨u, receiveCall_of_receiveLoop hloop, rfl⟩

/-! ### Where the call ends -/

theorem PollGives.isPoll {x : Input} {s s1 : State} {o : EventOut} (h : PollGives x s s1 o) : isPoll x = true := by
  cases h <;> rfl

/-- A poll with a result restarts the receiver (R240). -/
theorem PollGives.restarts {x : Input} {s s1 : State} {o : EventOut} (h : PollGives x s s1 o)
    (hresult : o.result ≠ .none) : s1 = s.restart := by
  cases h with
  | byte hb =>
    rcases rxByteEvent_cases hb with ⟨-, -, -, rfl⟩ | ⟨-, -, hstart⟩ | ⟨-, rfl, -⟩ | ⟨-, k, hraise⟩ | ⟨-, -, rfl, -⟩
    · exact absurd rfl hresult
    · cases hstart; exact absurd rfl hresult
    · exact absurd rfl hresult
    · cases hraise; rfl
    · rfl
  | idle hidle =>
    unfold rxIdleEvent at hidle
    split at hidle
    · cases hidle; rfl
    · cases hidle; exact absurd rfl hresult

/-- The call has returned: its last output, and no other, has a result, and the receiver has restarted. -/
def Returned (t : State) (os : List EventOut) (left : List Input) : Prop :=
  t.inputs = left ∧ ∃ before o, os = before ++ [o] ∧ (∀ x ∈ before, x.result = .none) ∧ o.result ≠ .none ∧
    t.rxs = .awaitingStart ∧ t.acc = emptyAcc

/-- The call waits: it has had no result, and no poll is next. -/
def Waiting (t : State) (os : List EventOut) (left : List Input) : Prop :=
  t.inputs = stillWaiting left ∧ (∀ x ∈ os, x.result = .none) ∧ ∀ x xs, left = x :: xs → isPoll x = false

theorem Returned.cons {t : State} {os : List EventOut} {left : List Input} {o : EventOut} (ho : o.result = .none)
    (h : Returned t os left) : Returned t (o :: os) left := by
  obtain ⟨hinputs, before, last, rfl, hbefore, hlast⟩ := h
  exact ⟨hinputs, o :: before, last, rfl, List.forall_mem_cons.2 ⟨ho, hbefore⟩, hlast⟩

theorem Waiting.cons {t : State} {os : List EventOut} {left : List Input} {o : EventOut} (ho : o.result = .none)
    (h : Waiting t os left) : Waiting t (o :: os) left := by
  obtain ⟨hinputs, hnone, hnext⟩ := h
  exact ⟨hinputs, List.forall_mem_cons.2 ⟨ho, hnone⟩, hnext⟩

/-- A call takes polls, one output each, and then has returned or waits. -/
theorem ReceiveCall.ends {ins : List Input} {s t : State} {os : List EventOut} (h : ReceiveCall ins s t os) :
    ∃ polls left, ins = polls ++ left ∧ (∀ x ∈ polls, isPoll x = true) ∧ os.length = polls.length ∧
      (Returned t os left ∨ Waiting t os left) := by
  induction h with
  | @returns x rest s s1 o hpoll hresult =>
    refine ⟨[x], rest, rfl, List.forall_mem_singleton.2 hpoll.isPoll, rfl, .inl ?_⟩
    cases hpoll.restarts hresult
    exact ⟨rfl, [], o, rfl, List.forall_mem_nil _, hresult, rfl, rfl⟩
  | @goesOn x rest s s1 t o os hpoll hnone _ ih =>
    obtain ⟨polls, left, rfl, hpolls, hlength, hend⟩ := ih
    exact ⟨x :: polls, left, rfl, List.forall_mem_cons.2 ⟨hpoll.isPoll, hpolls⟩, congrArg (· + 1) hlength,
      hend.imp (.cons hnone) (.cons hnone)⟩
  | @waits ins s hnext =>
    exact ⟨[], ins, rfl, List.forall_mem_nil _, rfl, .inr ⟨rfl, List.forall_mem_nil _, hnext⟩⟩

/-! ### The call and its events -/

/-- The state with other bookkeeping: what is presented, the outputs of the last step, and the counter. -/
def State.scripted (s : State) (ins : List Input) (outs : List EventOut) (tick : Nat) : State :=
  { s with inputs := ins, outs := outs, tick := tick }

/-- A receiver event reads no bookkeeping. -/
theorem sameReceiver_scripted (s : State) (ins : List Input) (outs : List EventOut) (tick : Nat) :
    SameReceiver s (s.scripted ins outs tick) :=
  ⟨rfl, rfl, rfl⟩

/-- A poll taken as a step does what it does in the call. -/
theorem PollGives.step_eq {x : Input} {s s1 : State} {o : EventOut} (h : PollGives x s s1 o) (rest : List Input)
    (outs : List EventOut) (tick : Nat) :
    step (s.scripted (x :: rest) outs tick) = .next (s1.scripted rest [o] (tick + 1)) := by
  have hsame := sameReceiver_scripted s rest outs (tick + 1)
  cases h with
  | @byte b _ _ _ hb =>
    have hrun := rxByteEvent_onto hsame b
    rw [hb] at hrun
    rw [step_of_event rfl]
    refine (exec_decodeRxByte b (s.scripted rest outs (tick + 1))).trans ?_
    rw [hrun, rxByteEvent_frame hb]
    rfl
  | @idle expired _ _ _ hidle =>
    have hrun := rxIdleEvent_onto hsame expired
    rw [hidle] at hrun
    rw [step_of_event rfl]
    refine (exec_rxIdle expired (s.scripted rest outs (tick + 1))).trans ?_
    rw [hrun, rxIdleEvent_eq_frame hidle]
    rfl

/-- Stepping through the polls of a call leaves its state, but for the bookkeeping. -/
theorem ReceiveCall.exists_runSteps_eq {ins : List Input} {s t : State} {os : List EventOut} (h : ReceiveCall ins s t os)
    (outs : List EventOut) (tick : Nat) :
    ∃ left, runSteps os.length (s.scripted ins outs tick) =
        .next (t.scripted left ((os.map fun o => [o]).getLastD outs) (tick + os.length)) ∧
      (t.inputs = left ∨ t.inputs = stillWaiting left) := by
  induction h generalizing outs tick with
  | @returns x rest s s1 o hpoll hresult =>
    exact ⟨rest, runSteps_succ (hpoll.step_eq rest outs tick) 0, .inl rfl⟩
  | @goesOn x rest s s1 t o os hpoll hnone _ ih =>
    obtain ⟨left, hrun, hinputs⟩ := ih [o] (tick + 1)
    refine ⟨left, ?_, hinputs⟩
    rw [List.length_cons, runSteps_succ (hpoll.step_eq rest outs tick), hrun, List.map_cons, List.getLastD_cons,
      Nat.add_right_comm, Nat.add_assoc]
  | @waits ins s hnext => exact ⟨ins, rfl, .inr rfl⟩

/-! ### The call on the bytes of a frame -/

/-- Bytes that are presented one by one are polls already. -/
theorem asPolls_bytes (bs : List Byte) (rest : List Input) :
    asPolls (bs.map (fun b => .event (.rxByte b)) ++ rest) =
      bs.map (fun b => .event (.rxByte b)) ++ asPolls rest := by
  induction bs with
  | nil => rfl
  | cons b bs ih => exact congrArg (Input.event (.rxByte b) :: ·) ih

/-- The call takes bytes up to the one that gives the first result, as byte events one after the other. -/
theorem receiveLoop_of_rxBytes {bs : List Byte} {s u : State} {before : List EventOut} {o : EventOut}
    (rest : List Input) (h : rxBytes bs s = .ok (u, before ++ [o])) (hbefore : ∀ x ∈ before, x.result = .none)
    (ho : o.result ≠ .none) :
    receiveLoop (bs.map (fun b => .event (.rxByte b)) ++ rest) s =
      .ok ({ u with inputs := rest }, before ++ [o]) := by
  induction bs generalizing s before with
  | nil => simp [rxBytes] at h
  | cons b bs ih =>
    obtain ⟨s1, o1, os, hb, hbs, hos⟩ := rxBytes_cons_ok h
    cases before with
    | nil =>
      cases hos
      obtain rfl : bs = [] := List.length_eq_zero_iff.1 (rxBytes_length hbs).symm
      cases hbs
      simp [receiveLoop, hb, Result.isNone_iff, ho]
    | cons x before =>
      cases hos
      obtain ⟨hx, hbefore⟩ := List.forall_mem_cons.1 hbefore
      simp [receiveLoop, hb, Result.isNone_iff, hx, ih hbs hbefore]

end Sys2Proof.Machine

namespace Sys2Proof.Proofs

open Sys2Proof.Machine

/-- Settles O37: the fill invariant makes the call complete; where it ends is the induction over its polls. -/
theorem receiveCallEndsAtFirstResult : Obligations.ReceiveCallEndsAtFirstResult := by
  intro s hs
  obtain ⟨t, os, hloop, -⟩ := receiveLoop_total (asPolls s.inputs) hs
  have hframe := receiveLoop_frame hloop
  have hout : t.out = s.out := by rw [hframe]; rfl
  have htx : t.tx = s.tx := by rw [hframe]; rfl
  obtain ⟨polls, left, hpolls, hall, hlength, hend⟩ := (receiveCall_of_receiveLoop hloop).ends
  refine ⟨{ t with outs := os }, polls, left, ?_, hpolls, hall, hlength, hout, htx, hend⟩
  rw [exec_receiveFrame, hloop, finish_ok]

/-- Settles O38: the ten bytes of a good frame give their only result at the tenth. -/
theorem receiveCallReturnsTheFrame : Obligations.ReceiveCallReturnsTheFrame := by
  intro d rest s hs hstart hver hlen hchecksum hfin hinputs
  have hreceived := rxBytes_good d s hs hstart hver hlen hchecksum hfin
  have hloop := receiveLoop_of_rxBytes (asPolls rest) hreceived
    (before := [{ arm := some s.timeoutMs }, {}, {}, {}, {}, {}, {}, {}, {}]) (by simp) nofun
  rw [exec_receiveFrame, hinputs, asPolls_bytes, hloop]
  rfl

/-- Settles O39: the state that the steps leave is the call's, but for the bookkeeping. -/
theorem receiveCallIsItsEvents : Obligations.ReceiveCallIsItsEvents := by
  intro s t h
  obtain ⟨v, hcall, ht⟩ := receiveCall_of_exec h
  obtain ⟨left, hrun, hleft⟩ := hcall.exists_runSteps_eq s.outs s.tick
  have hinputs : t.inputs = v.inputs := by rw [ht]
  refine ⟨_, hrun, ?rxs, ?acc, ?out, ?tx, hinputs ▸ hleft, fun o ho => ?last⟩
  case rxs | acc | out | tx => rw [ht]; rfl
  case last =>
    show (t.outs.map fun o => [o]).getLastD s.outs = [o]
    rw [List.getLastD_eq_getLast?, List.getLast?_map, ho]
    rfl

end Sys2Proof.Proofs
end

section
/-! The hand-over of a frame (spec 43_surface_ops.md R215, 70_reset_and_hazards.md R285): cycles without reset hand over
as many of the held bytes as there were cycles with `tx_ready`. -/

namespace Sys2Proof.Machine

/-- How many of the cycles had `tx_ready`. -/
def readyCycles (ps : List InPorts) : Nat := (ps.filter fun p => p.txReady).length

theorem readyCycles_cons (p : InPorts) (ps : List InPorts) :
    readyCycles (p :: ps) = (if p.txReady then 1 else 0) + readyCycles ps := by
  cases hready : p.txReady <;> simp [readyCycles, hready, Nat.add_comm]

/-- One step of a hand-over, taken from the script: the oldest byte goes out if the transport is ready (R44). -/
theorem step_of_busy_cycle {p : InPorts} {rest : List Input} {s : State} (hs : AccInv s) (hrst : p.rst = false)
    (h : s.inputs = .cycle p :: rest) (hbusy : s.handover ≠ []) :
    ∃ t, step s = .next t ∧ t.inputs = rest ∧ t.out = s.out ∧
      t.tx = s.tx ++ s.handover.take (if p.txReady then 1 else 0) ∧
      t.handover = s.handover.drop (if p.txReady then 1 else 0) := by
  obtain ⟨b, left, hheld⟩ := List.exists_cons_of_ne_nil hbusy
  obtain ⟨s1, hrcv⟩ := exec_decodeEvent_total (s := s.taking rest) (receiverEvent p) ((accInv_congr rfl rfl).2 hs)
  obtain ⟨t, ht, hdef, hout, -⟩ := Proofs.busyCycleHandsOverOneByte p b left (s.taking rest) s1 hrst hheld hrcv
  obtain ⟨o, hs1, -⟩ := exec_rcvEvent_frame (rcvEvent_receiverEvent p) hrcv
  have hinputs : t.inputs = rest := by rw [hdef, hs1]; rfl
  refine ⟨t, (step_of_cycle h).trans ht, hinputs, hout, ?tx, ?handover⟩
  case tx => rw [hdef, hheld]; cases p.txReady <;> simp
  case handover => rw [hdef, hheld]; cases p.txReady <;> rfl

/-- Before the last cycle the bytes have not run out, so that every cycle is one of the hand-over. -/
theorem runSteps_of_busy_cycles {ps : List InPorts} {rest : List Input} {s : State} (hs : AccInv s)
    (hrst : ∀ p ∈ ps, p.rst = false) (h : s.inputs = ps.map .cycle ++ rest)
    (hheld : ps ≠ [] → readyCycles ps.dropLast < s.handover.length) :
    ∃ t, runSteps ps.length s = .next t ∧ t.inputs = rest ∧ t.out = s.out ∧
      t.tx = s.tx ++ s.handover.take (readyCycles ps) ∧ t.handover = s.handover.drop (readyCycles ps) := by
  induction ps generalizing s with
  | nil => exact ⟨s, rfl, h, rfl, (List.append_nil _).symm, rfl⟩
  | cons p ps ih =>
    obtain ⟨hrstp, hrstps⟩ := List.forall_mem_cons.1 hrst
    have hlength := hheld (List.cons_ne_nil p ps)
    obtain ⟨s1, hstep, hinputs, hout, htx, hleft⟩ :=
      step_of_busy_cycle hs hrstp h (List.ne_nil_of_length_pos (Nat.zero_lt_of_lt hlength))
    have hheld1 : ps ≠ [] → readyCycles ps.dropLast < s1.handover.length := by
      intro hne
      rw [List.dropLast_cons_of_ne_nil hne, readyCycles_cons] at hlength
      rw [hleft, List.length_drop]
      omega
    obtain ⟨t, hrun, hrest, hout', htx', hleft'⟩ := ih ((stepKeeps_step hstep).accInv hs) hrstps hinputs hheld1
    refine ⟨t, (runSteps_succ hstep ps.length).trans hrun, hrest, hout'.trans hout, ?tx, ?handover⟩
    case tx => rw [htx', htx, hleft, readyCycles_cons, List.take_add, List.append_assoc]
    case handover => rw [hleft', hleft, readyCycles_cons, List.drop_drop]

end Sys2Proof.Machine

namespace Sys2Proof.Proofs

open Sys2Proof.Machine

/-- Settles O52, by induction on the cycles: each is O51's, behind bytes that have not run out. -/
theorem handoverDeliversTheFrame : Obligations.HandoverDeliversTheFrame := by
  intro ps rest s hs hrst h hheld
  exact runSteps_of_busy_cycles hs.2 hrst h fun _ => hheld

end Sys2Proof.Proofs
end

section
/-! Reports (spec 60_exceptions.md R230, R236, R240, R243): which events of the receiver report something, and what
stands beside a report. -/

namespace Sys2Proof.Machine

/-- The output is a report with nothing beside it but the classification of a `FRAME` (R236, R240). -/
def OnlyReports (o : EventOut) : Prop :=
  (∃ k, o = { result := .err k }) ∨
    ∃ fr, o = { result := .frame fr, peer := some { peerErr := decide (fr.command = 0x40#8), peerCode := fr.param } }

theorem onlyReports_err (k : ErrKind) : OnlyReports { result := .err k } := .inl ⟨k, rfl⟩

theorem onlyReports_frame (fr : Frame) : OnlyReports { result := .frame fr, peer := some (peerReport fr) } := by
  rw [peerReport_eq]
  exact .inr ⟨fr, rfl⟩

/-- A poll reports in states 1 to 9 only, and gives nothing but the report (R240, R243). -/
theorem PollGives.onlyReports {x : Input} {s s1 : State} {o : EventOut} (h : PollGives x s s1 o)
    (hresult : o.result ≠ .none) : s.rxs ≠ .awaitingStart ∧ OnlyReports o := by
  cases h with
  | byte hb =>
    rcases rxByteEvent_cases hb with ⟨-, -, -, rfl⟩ | ⟨-, -, hstart⟩ | ⟨-, rfl, -⟩ | ⟨hs, k, hraise⟩ |
      ⟨hend, -, -, d, -, rfl⟩
    · exact absurd rfl hresult
    · cases hstart; exact absurd rfl hresult
    · exact absurd rfl hresult
    · cases hraise; exact ⟨hs, onlyReports_err k⟩
    · exact ⟨fun hs => (nomatch hend.symm.trans hs), onlyReports_frame _⟩
  | idle hidle =>
    unfold rxIdleEvent at hidle
    split at hidle
    · next hexpired =>
      cases hidle
      obtain ⟨hs, -⟩ := hexpired
      exact ⟨hs, onlyReports_err .timeout⟩
    · cases hidle; exact absurd rfl hresult

/-- A receiver event that reports something is a poll: `RxLoad` and `RxAbort` have no result (R212, R213). -/
theorem exists_pollGives_of_report {e : Event} {s t : State} {o : EventOut} (he : rcvEvent e = true)
    (h : exec (decodeEvent s.rxs e) s = .next t) (ho : o ∈ t.outs) (hresult : o.result ≠ .none) :
    ∃ s1, PollGives (.event e) s s1 o ∧ t = s1.emit o := by
  cases e <;> simp only [rcvEvent, Bool.false_eq_true] at he
  case rxByte b =>
    rw [decodeEvent, exec_decodeRxByte] at h
    cases hb : rxByteEvent b s with
    | error r => rw [hb] at h; cases h
    | ok left =>
      rw [hb] at h
      cases h
      cases List.mem_singleton.1 ho
      exact ⟨left.1, .byte hb, rfl⟩
  case rxIdle expired =>
    cases (exec_rxIdle expired s).symm.trans h
    cases List.mem_singleton.1 ho
    exact ⟨_, .idle rfl, rfl⟩
  case rxLoad d =>
    cases (exec_rxLoad d s).symm.trans h
    cases List.mem_singleton.1 ho
    exact absurd rfl hresult
  case rxAbort =>
    cases (exec_rxAbort s).symm.trans h
    cases List.mem_singleton.1 ho
    exact absurd rfl hresult

end Sys2Proof.Machine

namespace Sys2Proof.Proofs

open Sys2Proof.Machine

/-- Settles O23: what reports is a poll, and a poll with a result restarts the receiver. -/
theorem reportRestartsAndChangesNothingElse : Obligations.ReportRestartsAndChangesNothingElse := by
  intro e s t o he h ho hresult
  obtain ⟨s1, hpoll, rfl⟩ := exists_pollGives_of_report he h ho hresult
  obtain ⟨hs, hreport⟩ := hpoll.onlyReports hresult
  cases hpoll.restarts hresult
  exact ⟨hs, rfl, hreport⟩

/-- Settles O25: the peer-error row's ten bytes are those of a good frame with command `40` (O24). -/
theorem peerErrorFrameIsClassified : Obligations.PeerErrorFrameIsClassified :=
  fun fb param ck s hs hck => goodFrameIsAccepted 0x40#8 fb param ck s hs hck

end Sys2Proof.Proofs
end

section
/-! Losing step, and reset (spec 70_reset_and_hazards.md R270, R271, R280): a start marker in front of a frame is taken
as the frame's own, which then fails as a version, and what follows is judged in awaiting-start. -/

namespace Sys2Proof.Machine

/-- Noise in awaiting-start, as byte events (R68, R172). -/
theorem rxBytes_of_noise {noise : List Byte} {s : State} (hs : s.rxs = .awaitingStart)
    (hnoise : ∀ b ∈ noise, b ≠ Config.startMarker) :
    rxBytes noise s = .ok (s, List.replicate noise.length {}) := by
  induction noise with
  | nil => rfl
  | cons b rest ih =>
    obtain ⟨hb, hrest⟩ := List.forall_mem_cons.1 hnoise
    have hdiscard : rxByteEvent b s = .ok (s, {}) := by
      rw [rxByteEvent_awaitingStart b hs, if_neg hb, discardByte]
    rw [rxBytes_cons hdiscard, ih hrest]
    rfl

/-- Two start markers in a row, then no further one: the second fails as a version and is not judged again as a start
(R185), so that all behind it is noise. -/
theorem rxBytes_of_strayStart {rest : List Byte} {s : State} (hs : s.rxs = .awaitingStart)
    (hrest : ∀ b ∈ rest, b ≠ Config.startMarker) :
    rxBytes (Config.startMarker :: Config.startMarker :: rest) s =
      .ok (s.restart, { arm := some s.timeoutMs } :: { result := .err .version } :: List.replicate rest.length {}) := by
  have hstray : rxByteEvent Config.startMarker s = .ok ((acceptStart s).1, { arm := some s.timeoutMs }) := by
    rw [rxByteEvent_awaitingStart _ hs, if_pos rfl, acceptStart]
  have hown : rxByteEvent Config.startMarker (acceptStart s).1 = .ok (s.restart, { result := .err .version }) := by
    rw [rxByteEvent_awaitingVersion _ rfl, if_neg (show Config.startMarker ≠ Config.version by decide)]
    rfl
  have hbehind : rxBytes rest s.restart = .ok (s.restart, List.replicate rest.length {}) := rxBytes_of_noise rfl hrest
  rw [rxBytes_cons hstray, rxBytes_cons hown, hbehind]

end Sys2Proof.Machine

namespace Sys2Proof.Proofs

open Sys2Proof.Machine

/-- Settles O33: behind the stray marker stands the frame's own, and the other nine bytes are noise. -/
theorem strayStartMarkerLosesTheFrame : Obligations.StrayStartMarkerLosesTheFrame := by
  intro cmd fb param s hs hrest
  exact rxBytes_of_strayStart hs hrest

/-- Settles O40: the whole state that a reset leaves, which a reset leaves as it is. -/
theorem resetGivesTheResetValues : Obligations.ResetGivesTheResetValues := by
  intro s
  refine ⟨s.resetCore.emit {}, exec_reset s, ?frame, ?state, ?again⟩
  case frame => rfl
  case state => rfl
  case again => exact exec_reset (s.resetCore.emit {})

end Sys2Proof.Proofs
end
